-- ==== Sys2Proof/Word.lean ====
section
/-! DEFINITION. The words of the core: line levels, the 32-bit accumulator word, the 48-bit command word. -/

namespace Sys2Proof

/-- A line level (00_scope R11): `false` is 0 (low), `true` is 1 (high). -/
abbrev Level := Bool

/-- The accumulator word, `WORD_W` = 32 bits (00_scope R8, 10_state R21). -/
abbrev Word := BitVec 32

/-- The host command word, format `CMD48` (30_encoding R81). -/
abbrev CmdWord := BitVec 48

/-- A register value, `VALUE_W` = 16 bits (00_scope R8). -/
abbrev Value := BitVec 16

/-- A 7-bit register address, `ADDR_W` = 7 bits (00_scope R8, 20_memory R60). -/
abbrev Addr := BitVec 7

end Sys2Proof
end

