-- ==== Sys2Proof/Config.lean ====
section
/-! DEFINITION. What is fixed for one machine: pin roles, polarities and the other parameters of 00_scope R8, the
event alphabet of 10_state R46, and the free values: constants with no body, so that no proof can see what they are. -/

namespace Sys2Proof

/-- The ten pin roles (10_state R30). -/
inductive Role where
  | csn | sclk | mosi | miso | en1v8 | en3v3 | ind0 | ind1 | atest0 | atest1
  deriving DecidableEq, Repr

/-- The ten roles in the order of 10_state R30. -/
def Role.all : List Role := [.csn, .sclk, .mosi, .miso, .en1v8, .en3v3, .ind0, .ind1, .atest0, .atest1]

/-- The seven output roles (10_state R37). -/
def Role.isOutput : Role → Bool
  | .csn | .sclk | .mosi | .en1v8 | .en3v3 | .ind0 | .ind1 => true
  | .miso | .atest0 | .atest1 => false

/-- A pin of `PINS` (00_scope R8), named by the role it carries, or by a number among the pins that carry none.
`ROLE` is injective, so naming a role's pin by the role loses nothing (DESIGN CHOICE, log 3). -/
inductive Pin where
  | role (r : Role)
  | extra (k : Nat)
  deriving DecidableEq, Repr

/-- Pin direction (10_state R32). -/
inductive Dir where
  | input | output
  deriving DecidableEq, Repr

/-- Pull mode (10_state R34): `PULL_NONE`, or one of the values the spec does not name (log 16). -/
inductive Pull where
  | none
  | other (n : Nat)
  deriving DecidableEq, Repr

/-- Electrical polarity of a role (00_scope R8, R11). -/
inductive Polarity where
  | activeHigh | activeLow
  deriving DecidableEq, Repr

/-- The pin-control state of one pin (10_state R31 to R34). The widths of `FUNC` and `PULL` are not in the spec (log 16). -/
structure PinCtl where
  func : Nat
  dir : Dir
  out : Level
  pull : Pull
  deriving DecidableEq, Repr

/-- One event of the trace (10_state R46, 00_scope R13). -/
inductive Event where
  /-- `W(role, level)`: a store to the output latch. -/
  | w (r : Role) (l : Level)
  /-- `S(role, level)`: a sample of the line. -/
  | s (r : Role) (l : Level)
  /-- `D(ticks)`: a delay of at least so many ticks. -/
  | d (ticks : Nat)
  /-- `F(pin, func)`: a store to the function-select field. -/
  | f (p : Pin) (func : Nat)
  /-- `DIRW(pin, dir)`: a store to the direction. -/
  | dirw (p : Pin) (dir : Dir)
  /-- `P(pin, mode)`: a store to the pull mode. -/
  | p (p : Pin) (mode : Pull)
  deriving DecidableEq, Repr

/-- `FUNC_GPIO` (00_scope R8). -/
def funcGpio : Nat := 0

/-- `READ_FLAG` (00_scope R8, derived by the spec in 30_encoding R91; log 19). -/
def readFlag : BitVec 8 := 0x80

/-- `SENTINEL_A`, "value A = disable" (00_scope R8, 44_reset_seq R170). -/
def sentinelA : Value := 0x0000

/-- `SENTINEL_B`, "value B = enable" (00_scope R8, 44_reset_seq R170; log 19). -/
def sentinelB : Value := 0x8000

/-- `POL` (00_scope R8): the polarity of each role. Only those of CSN, EN1V8 and EN3V3 are used by a rule. -/
structure Polarities where
  csn : Polarity
  sclk : Polarity
  mosi : Polarity
  miso : Polarity
  en1v8 : Polarity
  en3v3 : Polarity
  ind0 : Polarity
  ind1 : Polarity
  atest0 : Polarity
  atest1 : Polarity
  deriving DecidableEq, Repr

/-- The parameters of 00_scope R8 that some rule reads (10_state R43). `extraPins` is the number of pins of `PINS`
that carry no role. They stand in State and nothing writes them, so that a claim over all states holds for all
their values (DESIGN CHOICE, log 2). -/
structure Params where
  extraPins : Nat
  pol : Polarities
  tSetup : Nat
  tHold : Nat
  tTrail : Nat
  tRail : Nat
  mainAddr : Addr
  pollLimit : Option Nat
  deriving DecidableEq, Repr

/-- `POL[r]` (00_scope R8). -/
def Params.polarity (p : Params) : Role → Polarity
  | .csn => p.pol.csn
  | .sclk => p.pol.sclk
  | .mosi => p.pol.mosi
  | .miso => p.pol.miso
  | .en1v8 => p.pol.en1v8
  | .en3v3 => p.pol.en3v3
  | .ind0 => p.pol.ind0
  | .ind1 => p.pol.ind1
  | .atest0 => p.pol.atest0
  | .atest1 => p.pol.atest1

/-- `active(r)` (00_scope R11). -/
def Params.active (p : Params) (r : Role) : Level := p.polarity r == .activeHigh

/-- `idle(r)`, the other level (00_scope R11). -/
def Params.idle (p : Params) (r : Role) : Level := !p.active r

/-- OPEN (10_state R30, 91_not_in_source N8; log 2): whether an indicator or an analog-test pin, to which the spec gives no
polarity, is active-high. -/
opaque Config.isActiveHigh : Role → Bool

/-- The polarity of a role to which the spec gives none. -/
def Config.openPolarity (r : Role) : Polarity := if Config.isActiveHigh r then .activeHigh else .activeLow

/-- The default polarities of 00_scope R8 and 10_state R30 (decision D5, log 19): chip-select active-low, rail enables
active-high, positive logic on the data lines, and a clock that idles low, so that `idle(SCLK)` is 0 (00_scope R11); the
indicators and the analog-test pins are open. -/
def Config.defaultPol : Polarities where
  csn := .activeLow
  sclk := .activeHigh
  mosi := .activeHigh
  miso := .activeHigh
  en1v8 := .activeHigh
  en3v3 := .activeHigh
  ind0 := Config.openPolarity .ind0
  ind1 := Config.openPolarity .ind1
  atest0 := Config.openPolarity .atest0
  atest1 := Config.openPolarity .atest1

/-- OPEN in 00_scope R8: how many pins carry no role. -/
opaque Config.extraPins : Nat
/-- OPEN in 00_scope R8: `T_SETUP`. -/
opaque Config.tSetup : Nat
/-- OPEN in 00_scope R8: `T_HOLD`. -/
opaque Config.tHold : Nat
/-- OPEN in 00_scope R8: `T_TRAIL`. -/
opaque Config.tTrail : Nat
/-- OPEN in 00_scope R8: `T_RAIL`. -/
opaque Config.tRail : Nat
/-- OPEN in 00_scope R8: `MAIN_ADDR`. -/
opaque Config.mainAddr : Addr

/-- The parameters the machine has at reset: the open ones uninterpreted, `POL` and `POLL_LIMIT` at the defaults that
00_scope R8 gives (log 2). -/
def Config.params : Params where
  extraPins := Config.extraPins
  pol := Config.defaultPol
  tSetup := Config.tSetup
  tHold := Config.tHold
  tTrail := Config.tTrail
  tRail := Config.tRail
  mainAddr := Config.mainAddr
  pollLimit := none

/-- What free values may depend on: the traces between the external resets so far, the earliest first, and last the trace
since the last one (log 4, log 15). -/
abbrev History := List (List Event)

/-- FREE VALUE (10_state R35, 93 U7, U8; log 4): the level the environment puts on a pin that the core does not drive,
after the history so far. -/
opaque Config.envLevel : Pin → History → Level

/-- FREE VALUE (93 U3, 42_transport R139; log 7): the bits of `inputWord` above `len` when the output word is wider than
`len`, for the output word and the history so far. -/
opaque Config.upperBits : Word → History → Word

/-- FREE VALUE (40_gpio_init R114, 93 U13; log 10): the order of the pins inside one step of GPIO_INIT, for the history
so far: where each pin is put among those after it. -/
opaque Config.storeOrder : History → Nat → Nat

/-- FREE VALUE (10_state R27; log 13): what the host reads from `CMD`, after the history so far. -/
opaque Config.cmdRead : History → CmdWord

/-- FREE VALUES (10_state R47, 93 U6; log 6): what reset leaves unspecified, for the history before the reset. -/
opaque Config.resetAcc : History → Word
/-- FREE VALUE, as `Config.resetAcc`. -/
opaque Config.resetBitidx : History → BitVec 6
/-- FREE VALUE, as `Config.resetAcc`. -/
opaque Config.resetResult : History → Word
/-- FREE VALUE, as `Config.resetAcc`. -/
opaque Config.resetCmd : History → CmdWord
/-- FREE VALUE, as `Config.resetAcc`: `FUNC` of a pin. -/
opaque Config.resetFunc : Pin → History → Nat
/-- FREE VALUE, as `Config.resetAcc`: whether a pin is an output. -/
opaque Config.resetIsOutput : Pin → History → Bool
/-- FREE VALUE, as `Config.resetAcc`: `OUT` of a pin. -/
opaque Config.resetOut : Pin → History → Level
/-- FREE VALUE, as `Config.resetAcc`: the pull mode of a pin, 0 for `PULL_NONE`. -/
opaque Config.resetPull : Pin → History → Nat

/-- The pin-control state that reset leaves in a pin: every value possible (10_state R47). -/
def Config.resetPin (p : Pin) (before : History) : PinCtl where
  func := Config.resetFunc p before
  dir := if Config.resetIsOutput p before then .output else .input
  out := Config.resetOut p before
  pull := match Config.resetPull p before with
    | 0 => .none
    | n + 1 => .other n

end Sys2Proof
end

