-- ==== Sys2Proof/Machine/State.lean ====
section
/-! DEFINITION. The state of the machine (10_state R20), the reasons a step can stop, and the state after reset. -/

namespace Sys2Proof.Machine

/-- `RST`, the state of the Reset Sequencer (10_state R24). The reserved value 7 is never written and has no constructor. -/
inductive Rst where
  | idle | disabling | confirmedDisabled | enabling | confirmedEnabled | done | failed
  deriving DecidableEq, Repr

/-- `STAT.OUTCOME` (10_state R29, 60_exceptions R193). The reserved value 3 is never written and has no constructor.
`refused` is the hardware's answer to a reserved command word and no refusal of the model. -/
inductive OutcomeCode where
  | ok | timeout | refused
  deriving DecidableEq, Repr

/-- The operation that an inner TRANSACT runs for (10_state R23): TRANSACT itself, one of the four register operations,
CHIP_RESET, or none: a bare wire frame (log 9). -/
inductive Caller where
  | frame | transact | regRead | regWrite | status | strobe | chipReset
  deriving DecidableEq, Repr

/-- The micro-phases of one TRANSACT (42_transport R144), in its order: `load` is `T_LOAD`, and so on. -/
inductive LinkPhase where
  | load | select | drive | setupWait | rise | sample | holdWait | fall | trailWait | deselect | done
  deriving DecidableEq, Repr

/-- The three steps of GPIO_INIT (40_gpio_init R110). -/
inductive GpioPhase where
  | func | dir | low
  deriving DecidableEq, Repr

/-- The ten primitives of POWER_UP (41_power_seq R120), in order. -/
inductive PowerPhase where
  | func0 | dir0 | pull0 | func1 | dir1 | pull1 | core | settle | deselect | io
  deriving DecidableEq, Repr

/-- `SEQ`, the sequencer position (10_state R23): the operation, which inner TRANSACT (its length and output word) and
the micro-phase. For CHIP_RESET which of its transactions runs is told by `RST`. -/
inductive Seq where
  | idle
  | gpioInit (ph : GpioPhase)
  | powerUp (ph : PowerPhase)
  | link (caller : Caller) (len : Nat) (out : Word) (ph : LinkPhase)
  deriving DecidableEq, Repr

/-- The pin-control state of all pins of `PINS`: the pins of the ten roles, and those without a role. -/
structure Pins where
  csn : PinCtl
  sclk : PinCtl
  mosi : PinCtl
  miso : PinCtl
  en1v8 : PinCtl
  en3v3 : PinCtl
  ind0 : PinCtl
  ind1 : PinCtl
  atest0 : PinCtl
  atest1 : PinCtl
  extras : List PinCtl
  deriving DecidableEq, Repr

/-- The whole state (10_state R20), the parameters (10_state R43, log 2), and what the two agents outside will do:
`host`, the command words the host will still write (log 5), and `answers`, the levels the chip will put on MISO at the
next samples (log 4). `past` holds the traces before each external reset; no rule reads it, and free values depend on it
(log 15). -/
structure State where
  params : Params
  acc : Word
  bitidx : BitVec 6
  seq : Seq
  rst : Rst
  pollcnt : Nat
  dly : Nat
  cmd : CmdWord
  result : Word
  busy : Bool
  outcome : OutcomeCode
  pins : Pins
  trace : List Event
  past : History
  host : List CmdWord
  answers : List Level
  deriving DecidableEq, Repr

/-- The core has no fault: "Fault: none arises in the core" (60_exceptions R215, R190). -/
inductive Fault
  deriving DecidableEq, Repr

/-- Where the model gives no meaning. All are safe: the model stops where the hardware would go on. -/
inductive Refusal where
  /-- Raised by an arm of `exec` whose instruction has no meaning yet: none. Safe. -/
  | notModelled (mnemonic : String)
  /-- Raised by TRANSACT with `LEN = 0` (93 U1: refuse). Safe (log 8). -/
  | lenZero
  /-- Raised by TRANSACT with `LEN > 32` (93 U2: refuse). Safe (log 8). -/
  | lenAbove32
  /-- Raised by REG_READ, REG_WRITE and STROBE with `ADDR ≥ 0x80` (93 U4: refuse). Safe (log 8). -/
  | addrAbove7Bits
  /-- Raised by a host write of `CMD` while `BUSY = 1` (60_exceptions R211, R215). Safe (log 5). -/
  | cmdWhileBusy
  /-- Raised by a host write of RESULT or STAT, which are read only for the host (10_state R28, R29). Safe (log 13). -/
  | readOnlyHostRegister
  /-- Raised by a host write of a register number above 2 (10_state R44). Safe (log 13). -/
  | noSuchHostRegister
  deriving DecidableEq, Repr

/-- The pin-control state that reset leaves: unspecified (10_state R47). -/
def Pins.afterReset (extraPins : Nat) (before : History) : Pins where
  csn := Config.resetPin (.role .csn) before
  sclk := Config.resetPin (.role .sclk) before
  mosi := Config.resetPin (.role .mosi) before
  miso := Config.resetPin (.role .miso) before
  en1v8 := Config.resetPin (.role .en1v8) before
  en3v3 := Config.resetPin (.role .en3v3) before
  ind0 := Config.resetPin (.role .ind0) before
  ind1 := Config.resetPin (.role .ind1) before
  atest0 := Config.resetPin (.role .atest0) before
  atest1 := Config.resetPin (.role .atest1) before
  extras := (List.range extraPins).map fun k => Config.resetPin (.extra k) before

/-- The state right after a reset (10_state R47, 70_reset R220) that comes after the history `before`. The history is kept,
so that the chip and every other free value may be others after each reset; the agents' lists are emptied (log 15). -/
def State.afterReset (params : Params) (before : History) : State where
  params := params
  acc := Config.resetAcc before
  bitidx := Config.resetBitidx before
  seq := .idle
  rst := .idle
  pollcnt := 0
  dly := 0
  cmd := Config.resetCmd before
  result := Config.resetResult before
  busy := false
  outcome := .ok
  pins := Pins.afterReset params.extraPins before
  trace := []
  past := before
  host := []
  answers := []

/-- The machine right after its first reset. -/
def State.reset : State := State.afterReset Config.params []

end Sys2Proof.Machine
end

