-- ==== Sys2Proof/Machine/Flags.lean ====
section
/-! DEFINITION. The core has no flags (10_state R38). The conditions it evaluates are here: the sentinel compare and the
poll limit of CHIP_RESET, and the status word the host reads. -/

namespace Sys2Proof.Machine

/-- The compare of CHIP_RESET: equality of two 16-bit values, all bits taking part (30_encoding R103). -/
def readbackMatches (v sentinel : Value) : Bool := v == sentinel

/-- `POLL_LIMIT == some L and POLLCNT >= L` (44_reset_seq R170, R179). -/
def pollsExhausted (limit : Option Nat) (polls : Nat) : Bool :=
  match limit with
  | none => false
  | some l => l ≤ polls

/-- The 3-bit encoding of `RST` (10_state R24). -/
def Rst.code : Rst → BitVec 3
  | .idle => 0
  | .disabling => 1
  | .confirmedDisabled => 2
  | .enabling => 3
  | .confirmedEnabled => 4
  | .done => 5
  | .failed => 6

/-- The 2-bit encoding of `OUTCOME` (10_state R29). -/
def OutcomeCode.code : OutcomeCode → BitVec 2
  | .ok => 0
  | .timeout => 1
  | .refused => 2

/-- `STAT` as the host reads it (10_state R29): reserved bits 7:6, RST, OUTCOME, BUSY. -/
def State.stat (s : State) : BitVec 8 :=
  0#2 ++ s.rst.code ++ s.outcome.code ++ BitVec.ofBool s.busy

end Sys2Proof.Machine
end

