-- ==== Sys2Proof/Syntax.lean ====
section
/-! DEFINITION. The instructions: one constructor per row of spec/opcode_table.json. -/

namespace Sys2Proof

/-- The eight operations of 00_scope R2, with the operand fields of the command word of 30_encoding R81 and R83,
and the three wire frames of 30_encoding R88 and R89. The operand fields `len` and `addr` of the operations are
8 bits wide, as in the command word, so that an operand outside the contract can be written down (R86). -/
inductive Instr where
  /-- GPIO_INIT, 40_gpio_init R110. -/
  | gpioInit
  /-- POWER_UP, 41_power_seq R120. -/
  | powerUp
  /-- TRANSACT len, out; 42_transport R130. -/
  | transact (len : BitVec 8) (out : Word)
  /-- REG_READ addr; 43_register_access R150. -/
  | regRead (addr : BitVec 8)
  /-- REG_WRITE addr, value; 43_register_access R153. -/
  | regWrite (addr : BitVec 8) (value : Value)
  /-- STATUS; 43_register_access R155. -/
  | status
  /-- STROBE addr; 43_register_access R157. -/
  | strobe (addr : BitVec 8)
  /-- CHIP_RESET; 44_reset_seq R170. -/
  | chipReset
  /-- The wire frame F8_SELECT (30_encoding R88), sent by STROBE and by STATUS (address 0). -/
  | f8Select (addr : Addr)
  /-- The wire frame F24_READ (30_encoding R89), sent by REG_READ and by the polls of CHIP_RESET. -/
  | f24Read (addr : Addr)
  /-- The wire frame F24_WRITE (30_encoding R89), sent by REG_WRITE and by the sentinel writes of CHIP_RESET. -/
  | f24Write (addr : Addr) (data : Value)
  deriving DecidableEq, Repr

end Sys2Proof
end

