-- ==== Sys2Proof/WellFormed.lean ====
section
/-! DEFINITION. The operand contracts of 30_encoding R86: an instruction is well-formed when it is in contract. -/

namespace Sys2Proof

/-- `bitLength` is "between 1 and 32" (42_transport R130). -/
def lenInRange (len : BitVec 8) : Bool := 1 ≤ len.toNat && len.toNat ≤ 32

/-- `outputWord` is "a data payload of that width": bits 31 down to `len` are zero (30_encoding R86). -/
def payloadFits (len : Nat) (out : Word) : Bool := out >>> len == 0

/-- The address fits in 7 bits (20_memory R65, 30_encoding R86). -/
def addrInRange (addr : BitVec 8) : Bool := addr.toNat < 0x80

/-- In contract, 30_encoding R86. The frames carry 7-bit addresses and are always in contract. -/
def Instr.wellFormed : Instr → Bool
  | .gpioInit => true
  | .powerUp => true
  | .transact len out => lenInRange len && payloadFits len.toNat out
  | .regRead addr => addrInRange addr
  | .regWrite addr _ => addrInRange addr
  | .status => true
  | .strobe addr => addrInRange addr
  | .chipReset => true
  | .f8Select _ => true
  | .f24Read _ => true
  | .f24Write _ _ => true

end Sys2Proof
end

