-- ==== Sys2Proof/Machine/Operands.lean ====
section
/-! DEFINITION. Operand assembly and result extraction (30_encoding R91 to R95). -/

namespace Sys2Proof.Machine

/-- The read word, `zext_32(addr | READ_FLAG) << 16` (30_encoding R91). -/
def readWord (addr : BitVec 8) : Word := ((addr ||| readFlag).setWidth 32) <<< 16

/-- The write word, `(zext_32(addr) << 16) | zext_32(value16)` (30_encoding R92). -/
def writeWord (addr : BitVec 8) (value : Value) : Word := ((addr.setWidth 32) <<< 16) ||| value.setWidth 32

/-- The strobe word, `zext_32(addr)` (30_encoding R93). -/
def strobeWord (addr : BitVec 8) : Word := addr.setWidth 32

/-- The status word, 0 (30_encoding R93). -/
def statusWord : Word := 0

/-- `inputWord[15:0]` (30_encoding R94). -/
def lowValue (input : Word) : Value := input.extractLsb' 0 16

/-- `inputWord[7:0]` (30_encoding R94). -/
def lowByte (input : Word) : BitVec 8 := input.extractLsb' 0 8

/-- Bit `n` of `a` overwritten by `b`, no other bit changed (42_transport R135). -/
def setBit (a : Word) (n : Nat) (b : Level) : Word :=
  if b then a ||| (1#32 <<< n) else a &&& ~~~(1#32 <<< n)

/-- The bits `len − 1` down to 0. -/
def lowMask (len : Nat) : Word := (1#32 <<< len) - 1#32

/-- A 7-bit address in an 8-bit address field. -/
def addrField (addr : Addr) : BitVec 8 := addr.setWidth 8

/-- The word of a timeout's report: the last readback and the phase that ran out (30_encoding R84, 44_reset_seq R179). -/
def timeoutReport (phase : Bool) (readback : Value) : Word :=
  readback.setWidth 32 ||| ((if phase then 1#32 else 0#32) <<< 16)

end Sys2Proof.Machine
end

