-- ==== Sys2Proof/Machine/Ops.lean ====
section
/-! DEFINITION. The named operations over the state: the pin controller, the pin primitives of 00_scope R13, the line
levels of 10_state R35, and the end of an operation (10_state R45), which is also how TIMEOUT and REFUSED are taken. -/

namespace Sys2Proof.Machine

/-- The pin-control state of the pin of a role. -/
def Pins.ofRole (p : Pins) : Role → PinCtl
  | .csn => p.csn
  | .sclk => p.sclk
  | .mosi => p.mosi
  | .miso => p.miso
  | .en1v8 => p.en1v8
  | .en3v3 => p.en3v3
  | .ind0 => p.ind0
  | .ind1 => p.ind1
  | .atest0 => p.atest0
  | .atest1 => p.atest1

/-- The pin-control state of a pin, if the pin exists. -/
def Pins.get? (p : Pins) : Pin → Option PinCtl
  | .role r => some (p.ofRole r)
  | .extra k => p.extras[k]?

/-- Change the pin-control state of the pin of a role. -/
def Pins.modify (p : Pins) (r : Role) (f : PinCtl → PinCtl) : Pins :=
  match r with
  | .csn => { p with csn := f p.csn }
  | .sclk => { p with sclk := f p.sclk }
  | .mosi => { p with mosi := f p.mosi }
  | .miso => { p with miso := f p.miso }
  | .en1v8 => { p with en1v8 := f p.en1v8 }
  | .en3v3 => { p with en3v3 := f p.en3v3 }
  | .ind0 => { p with ind0 := f p.ind0 }
  | .ind1 => { p with ind1 := f p.ind1 }
  | .atest0 => { p with atest0 := f p.atest0 }
  | .atest1 => { p with atest1 := f p.atest1 }

/-- Change every pin: the pin of role `r` by `f (some r)`, a pin without a role by `f none`. -/
def Pins.mapAll (p : Pins) (f : Option Role → PinCtl → PinCtl) : Pins where
  csn := f (some .csn) p.csn
  sclk := f (some .sclk) p.sclk
  mosi := f (some .mosi) p.mosi
  miso := f (some .miso) p.miso
  en1v8 := f (some .en1v8) p.en1v8
  en3v3 := f (some .en3v3) p.en3v3
  ind0 := f (some .ind0) p.ind0
  ind1 := f (some .ind1) p.ind1
  atest0 := f (some .atest0) p.atest0
  atest1 := f (some .atest1) p.atest1
  extras := p.extras.map (f none)

/-- Every pin of `PINS`. -/
def Pins.all (p : Pins) : List Pin :=
  Role.all.map .role ++ (List.range p.extras.length).map .extra

/-- `OUT[r] <- l`. -/
def Pins.setOut (p : Pins) (r : Role) (l : Level) : Pins := p.modify r fun c => { c with out := l }

/-- `FUNC[r] <- v`. -/
def Pins.setFunc (p : Pins) (r : Role) (v : Nat) : Pins := p.modify r fun c => { c with func := v }

/-- `DIR[r] <- d`. -/
def Pins.setDir (p : Pins) (r : Role) (d : Dir) : Pins := p.modify r fun c => { c with dir := d }

/-- `PULL[r] <- m`. -/
def Pins.setPull (p : Pins) (r : Role) (m : Pull) : Pins := p.modify r fun c => { c with pull := m }

/-- The core drives the pin: a plain GPIO whose direction is out (10_state R35). -/
def pinDriven (c : PinCtl) : Bool := c.func == funcGpio && c.dir == .output

/-- Append one event to the trace (10_state R46). -/
def State.log (e : Event) (s : State) : State := { s with trace := s.trace ++ [e] }

/-- `drive(r, l)` (00_scope R13). -/
def State.drive (r : Role) (l : Level) (s : State) : State :=
  { s with pins := s.pins.setOut r l, trace := s.trace ++ [.w r l] }

/-- `assert(r)` (00_scope R13). -/
def State.assertPin (r : Role) (s : State) : State := s.drive r (s.params.active r)

/-- `deassert(r)` (00_scope R13). -/
def State.deassertPin (r : Role) (s : State) : State := s.drive r (s.params.idle r)

/-- `setfunc(ROLE[r], v)` (00_scope R13). -/
def State.setFunc (r : Role) (v : Nat) (s : State) : State :=
  { s with pins := s.pins.setFunc r v, trace := s.trace ++ [.f (.role r) v] }

/-- `setdir(ROLE[r], d)` (00_scope R13). -/
def State.setDir (r : Role) (d : Dir) (s : State) : State :=
  { s with pins := s.pins.setDir r d, trace := s.trace ++ [.dirw (.role r) d] }

/-- `setpull(ROLE[r], m)` (00_scope R13). -/
def State.setPull (r : Role) (m : Pull) (s : State) : State :=
  { s with pins := s.pins.setPull r m, trace := s.trace ++ [.p (.role r) m] }

/-- The start of `delay(T)`: the event, and `DLY` loaded with T (10_state R26). -/
def State.startDelay (t : Nat) (s : State) : State := { s with dly := t, trace := s.trace ++ [.d t] }

/-- The rest of a delay: `DLY` has counted down to 0 (10_state R26). -/
def State.endDelay (s : State) : State := { s with dly := 0 }

/-- `delay(T)` (00_scope R13), passed as a whole (log 11). -/
def State.delay (t : Nat) (s : State) : State := (s.startDelay t).endDelay

/-- The history so far (log 15). -/
def State.history (s : State) : History := s.past ++ [s.trace]

/-- The level the environment puts on a pin (10_state R35): on MISO the chip's next answer, while `answers` has one;
else a free value (log 4). -/
def State.envLevel (s : State) (p : Pin) : Level :=
  match p, s.answers with
  | .role .miso, l :: _ => l
  | p, _ => Config.envLevel p s.history

/-- `LINE[p]` (10_state R35). -/
def State.line (s : State) (p : Pin) : Level :=
  match s.pins.get? p with
  | some c => if pinDriven c then c.out else s.envLevel p
  | none => s.envLevel p

/-- What a sample of MISO leaves of the chip's answers: one answer is used up, unless the core drives the line itself. -/
def State.answersAfterSample (s : State) : List Level :=
  if pinDriven s.pins.miso then s.answers else s.answers.tail

/-- `ACC[n] <- sample(MISO)` (42_transport R135): the line is read, and written into bit `n`. -/
def State.sampleInto (n : Nat) (s : State) : State :=
  { s with
    acc := setBit s.acc n (s.line (.role .miso))
    answers := s.answersAfterSample
    trace := s.trace ++ [.s .miso (s.line (.role .miso))] }

/-- The end of an operation (10_state R45): `SEQ <- IDLE`, RESULT and OUTCOME written, BUSY cleared. Every outcome is
taken here: OK, TIMEOUT (60_exceptions R199) and REFUSED (R200). -/
def State.finish (o : OutcomeCode) (r : Word) (s : State) : State :=
  { s with seq := .idle, result := r, outcome := o, busy := false }

/-- The accepted write of `CMD` (10_state R27): the word is latched and BUSY set. SEQ stays where it is (DESIGN CHOICE,
log 24). -/
def State.accept (w : CmdWord) (s : State) : State := { s with cmd := w, busy := true }

/-- The power state of the chip, as a view of the lines (10_state R41): both rails idle. -/
def State.unpowered (s : State) : Bool :=
  s.line (.role .en1v8) == s.params.idle .en1v8 && s.line (.role .en3v3) == s.params.idle .en3v3

/-- `rail-1.8V-active` (10_state R41). -/
def State.rail1v8Active (s : State) : Bool := s.line (.role .en1v8) == s.params.active .en1v8

/-- `rail-3.3V-active` (10_state R41). -/
def State.rail3v3Active (s : State) : Bool := s.line (.role .en3v3) == s.params.active .en3v3

/-- `selected` (10_state R41). -/
def State.selected (s : State) : Bool := s.line (.role .csn) == s.params.active .csn

/-- `deselected` (10_state R41). -/
def State.deselected (s : State) : Bool := s.line (.role .csn) == s.params.idle .csn

end Sys2Proof.Machine
end

