-- ==== Sys2Proof/Machine/Transport.lean ====
section
/-! DEFINITION. The Bit-Bang Transport (42_transport): the transaction every frame goes through, and TRANSACT. -/

namespace Sys2Proof.Machine

/-- `ACC <- out`, and `BITIDX <- len − 1` (42_transport R130, 10_state R22). No step comes here with a `len` outside 1 to 32,
where this is the model's choice (log 22). -/
def State.loadAcc (len : Nat) (out : Word) (s : State) : State :=
  { s with acc := out, bitidx := BitVec.ofNat 6 (len - 1) }

/-- `BITIDX <- n`. -/
def State.setIndex (n : Nat) (s : State) : State := { s with bitidx := BitVec.ofNat 6 n }

/-- One bit of the loop (42_transport R132): 2a drive MOSI, 2b set-up delay, 2c raise the clock and sample into the same
bit, 2d hold delay, 2e lower the clock. -/
def State.shiftBit (n : Nat) (s : State) : State :=
  ((((((s.setIndex n).drive .mosi (s.acc.getLsbD n)).delay s.params.tSetup).drive .sclk true).sampleInto n).delay
    s.params.tHold).drive .sclk false

/-- The bit loop: positions `n − 1` down to 0 (42_transport R132). -/
def State.shiftBits : Nat → State → State
  | 0, s => s
  | n + 1, s => (s.shiftBit n).shiftBits n

/-- Steps 1 to 3 of TRANSACT (42_transport R131 to R138): the whole transaction window. -/
def State.transaction (len : Nat) (out : Word) (s : State) : State :=
  ((((s.loadAcc len out).assertPin .csn).shiftBits len).delay s.params.tTrail).deassertPin .csn

/-- Step 4 of TRANSACT (42_transport R139): the accumulator is `inputWord`. When the output word was wider than `len`,
the bits above `len` are not promised and are a free value (93 U3, log 7). -/
def State.returnWord (len : Nat) (out : Word) (s : State) : State :=
  if payloadFits len out then s
  else { s with acc := (s.acc &&& lowMask len) ||| (Config.upperBits out s.history &&& ~~~lowMask len) }

/-- The end of TRANSACT: `RESULT <- ACC`, `OUTCOME <- OK` (42_transport R130). -/
def State.endTransact (len : Nat) (out : Word) (s : State) : State :=
  (s.returnWord len out).finish .ok (s.returnWord len out).acc

/-- TRANSACT (42_transport R130). `LEN = 0` and `LEN > 32` are refused by name (93 U1, U2; log 8). -/
def execTransact (len : BitVec 8) (out : Word) (s : State) : Host.Outcome State Fault Refusal :=
  if len.toNat = 0 then .refused .lenZero
  else if 32 < len.toNat then .refused .lenAbove32
  else .next ((s.transaction len.toNat out).endTransact len.toNat out)

end Sys2Proof.Machine
end

