-- ==== Sys2Proof/Machine/ChipReset.lean ====
section
/-! DEFINITION. CHIP_RESET, the Reset Sequencer (44_reset_seq). Its poll loops need not end (R178), so one execution ends
where a poll does not match: the sequencer then stands before the next poll, and the next step goes on from there (log 1).
`RST` tells which of the sequence's transactions the sequencer stands at. -/

namespace Sys2Proof.Machine

/-- The frame of the sentinel writes, to `MAIN_ADDR` (44_reset_seq R172, R174). -/
def State.sentinelFrame (s : State) (v : Value) : Word := writeWord (addrField s.params.mainAddr) v

/-- The frame of the polls (44_reset_seq R173). -/
def State.pollFrame (s : State) : Word := readWord (addrField s.params.mainAddr)

/-- CHIP_RESET stands before its next transaction. -/
def State.standBefore (w : Word) (s : State) : State := { s with seq := .link .chipReset 24 w .load }

/-- CHIP_RESET stands after a transaction: at its `T_DONE`, where the model also has it for the step ConfirmedEnabled to Done,
to which the spec gives no position (DESIGN CHOICE, log 25). -/
def State.standAfter (w : Word) (s : State) : State := { s with seq := .link .chipReset 24 w .done }

/-- `RST <- r`. -/
def State.setRst (r : Rst) (s : State) : State := { s with rst := r }

/-- `POLLCNT <- n`. -/
def State.setPolls (n : Nat) (s : State) : State := { s with pollcnt := n }

/-- `fail(phase, v)` (44_reset_seq R170, R179): RST Failed, OUTCOME TIMEOUT, the last readback and the phase reported. -/
def State.failReset (phase : Bool) (s : State) : State :=
  (s.setRst .failed).finish .timeout (timeoutReport phase (lowValue s.acc))

/-- After a poll (44_reset_seq R173, R175, R179): a match goes on by `matched`; else the operation fails if the poll limit
is reached, and polls again if not. -/
def State.judgePoll (sentinel : Value) (phase : Bool) (matched : State → State) (s : State) : State :=
  if readbackMatches (lowValue s.acc) sentinel then matched (s.setPolls (s.pollcnt + 1))
  else if pollsExhausted s.params.pollLimit (s.pollcnt + 1) then (s.setPolls (s.pollcnt + 1)).failReset phase
  else (s.setPolls (s.pollcnt + 1)).standBefore s.pollFrame

/-- What CHIP_RESET does when one of its transactions has ended, by `RST` (44_reset_seq R172 to R177): after a write, the
polls of its phase begin; after a poll, `judgePoll`; in ConfirmedEnabled, Done and the end. In Done and Failed no transaction
of CHIP_RESET ends: the operation just ends there (log 18). The assignments of the pseudocode that are no primitives go in
the step at `T_DONE` they follow; only `RST <- Done` has a step of its own, with the end of the operation, SEQ still at the
last poll's `T_DONE` (DESIGN CHOICE, log 25). -/
def State.resetContinue (s : State) : State :=
  match s.rst with
  | .idle => ((s.setRst .disabling).setPolls 0).standBefore s.pollFrame
  | .disabling =>
    s.judgePoll sentinelA false fun t => (t.setRst .confirmedDisabled).standBefore (t.sentinelFrame sentinelB)
  | .confirmedDisabled => ((s.setRst .enabling).setPolls 0).standBefore s.pollFrame
  | .enabling => s.judgePoll sentinelB true fun t => (t.setRst .confirmedEnabled).standAfter t.pollFrame
  | .confirmedEnabled => (s.setRst .done).finish .ok 0
  | .done | .failed => s.finish .ok 0

/-- One transaction of CHIP_RESET and what follows it. -/
def State.resetTransaction (w : Word) (s : State) : State := (s.transaction 24 w).resetContinue

/-- The enable phase's poll (44_reset_seq R175, R177): on a match the sequence is Done. -/
def State.pollEnable (s : State) : State :=
  let t := s.resetTransaction s.pollFrame
  if t.rst = .confirmedEnabled then t.resetContinue else t

/-- The enable phase (44_reset_seq R174): sentinel B is written, then polled for. -/
def State.enablePhase (s : State) : State := (s.resetTransaction (s.sentinelFrame sentinelB)).pollEnable

/-- The disable phase's poll (44_reset_seq R173): on a match the enable phase follows. -/
def State.pollDisable (s : State) : State :=
  let t := s.resetTransaction s.pollFrame
  if t.rst = .confirmedDisabled then t.enablePhase else t

/-- The disable phase (44_reset_seq R172): sentinel A is written, then polled for. -/
def State.disablePhase (s : State) : State := (s.resetTransaction (s.sentinelFrame sentinelA)).pollDisable

/-- The start (44_reset_seq R181): `RST <- Idle`, whatever it held, and the write of sentinel A next, with no step between
(DESIGN CHOICE, log 25). -/
def State.beginReset (s : State) : State := (s.setRst .idle).standBefore (s.sentinelFrame sentinelA)

/-- CHIP_RESET goes on before the transaction that `RST` names. -/
def State.resumeReset (s : State) : State :=
  match s.rst with
  | .idle => s.disablePhase
  | .disabling => s.pollDisable
  | .confirmedDisabled => s.enablePhase
  | .enabling => s.pollEnable
  | .confirmedEnabled | .done | .failed => s.beginReset.disablePhase

/-- The sequencer stands before a transaction of CHIP_RESET. -/
def inChipReset : Seq → Bool
  | .link .chipReset _ _ .load => true
  | _ => false

/-- CHIP_RESET (44_reset_seq R170): from its start, or from where it stands. -/
def execChipReset (s : State) : Host.Outcome State Fault Refusal :=
  .next (if inChipReset s.seq then s.resumeReset else s.beginReset.disablePhase)

end Sys2Proof.Machine
end

