-- ==== Sys2Proof/Machine/Frames.lean ====
section
/-! DEFINITION. The wire frames as sub-operations (44_reset_seq R170: "their pin events are appended, their own writes of
RESULT and OUTCOME are not made"): one transaction with the frame as output word (30_encoding R88, R89), after which the
sequencer stands at the caller's next position, or at IDLE (42_transport R144, log 9). -/

namespace Sys2Proof.Machine

/-- Where the sequencer stands after a frame: at `T_DONE` of the inner TRANSACT that was about to begin, for its caller;
at IDLE for a bare frame. -/
def seqAfterFrame : Seq → Seq
  | .link .frame _ _ _ => .idle
  | .link c len out .load => .link c len out .done
  | q => q

/-- One frame on the wire. -/
def State.sendFrame (len : Nat) (out : Word) (s : State) : State :=
  { s.transaction len out with seq := seqAfterFrame s.seq }

/-- F8_SELECT (30_encoding R88). -/
def execF8Select (addr : Addr) (s : State) : Host.Outcome State Fault Refusal :=
  .next (s.sendFrame 8 (strobeWord (addrField addr)))

/-- F24_READ (30_encoding R89). -/
def execF24Read (addr : Addr) (s : State) : Host.Outcome State Fault Refusal :=
  .next (s.sendFrame 24 (readWord (addrField addr)))

/-- F24_WRITE (30_encoding R89). -/
def execF24Write (addr : Addr) (data : Value) (s : State) : Host.Outcome State Fault Refusal :=
  .next (s.sendFrame 24 (writeWord (addrField addr) data))

end Sys2Proof.Machine
end

