-- ==== Sys2Proof/Machine/GpioInit.lean ====
section
/-! DEFINITION. GPIO_INIT, the Pin/GPIO Initializer (40_gpio_init). Each of its three steps is one update of all the pins
it touches, and its events stand in the trace in an order that is a free value (R114, log 10). -/

namespace Sys2Proof.Machine

/-- Put `x` at place `n` of a list, or at its end. -/
def insertAt {α : Type} (x : α) : Nat → List α → List α
  | 0, l => x :: l
  | _ + 1, [] => [x]
  | n + 1, y :: l => y :: insertAt x n l

/-- A list in the order that `pick` chooses: each element is put at a chosen place among those after it. Every order is
some choice's. -/
def arrange {α : Type} (pick : Nat → Nat) : List α → List α
  | [] => []
  | x :: l => insertAt x (pick l.length % (l.length + 1)) (arrange pick l)

/-- The direction GPIO_INIT gives the pin of a role, or a pin without one (40_gpio_init R112). -/
def initialDir : Option Role → Dir
  | some r => if r.isOutput then .output else .input
  | none => .input

/-- The role a pin carries. -/
def pinRole : Pin → Option Role
  | .role r => some r
  | .extra _ => none

/-- The events of one step of GPIO_INIT, in an order that is free (40_gpio_init R114). -/
def State.logAnyOrder (events : List Event) (s : State) : State :=
  { s with trace := s.trace ++ arrange (Config.storeOrder s.history) events }

/-- Step 1 (40_gpio_init R111): `FUNC[p] <- FUNC_GPIO` for every pin. -/
def State.gpioFunc (s : State) : State :=
  { s with pins := s.pins.mapAll fun _ c => { c with func := funcGpio } }.logAnyOrder
    (s.pins.all.map fun p => .f p funcGpio)

/-- Step 2 (40_gpio_init R112): `DIR[p]` out for the output roles, in for every other pin. -/
def State.gpioDir (s : State) : State :=
  { s with pins := s.pins.mapAll fun r c => { c with dir := initialDir r } }.logAnyOrder
    (s.pins.all.map fun p => .dirw p (initialDir (pinRole p)))

/-- The latch step 3 leaves in a pin: 0 on an output role, else what it held. -/
def lowOutput (r : Option Role) (c : PinCtl) : PinCtl :=
  match r with
  | some r => if r.isOutput then { c with out := false } else c
  | none => c

/-- Step 3 (40_gpio_init R113): `OUT[r] <- 0` for the seven output roles. -/
def State.gpioLow (s : State) : State :=
  { s with pins := s.pins.mapAll lowOutput }.logAnyOrder
    ((Role.all.filter Role.isOutput).map fun r => .w r false)

/-- GPIO_INIT (40_gpio_init R110). -/
def execGpioInit (s : State) : Host.Outcome State Fault Refusal :=
  .next (s.gpioFunc.gpioDir.gpioLow.finish .ok 0)

end Sys2Proof.Machine
end

