-- ==== Sys2Proof/Machine/PowerUp.lean ====
section
/-! DEFINITION. POWER_UP, the Power Sequencer (41_power_seq). -/

namespace Sys2Proof.Machine

/-- Step (a) for one analog-test pin (41_power_seq R121): function GPIO, direction input, no pull. -/
def State.floatPin (r : Role) (s : State) : State :=
  ((s.setFunc r funcGpio).setDir r .input).setPull r .none

/-- The pin events of POWER_UP (41_power_seq R120): (a) both analog-test pins floating, (b) `EN1V8` asserted,
(c) `delay(T_RAIL)`, (d) `CSN` idle, (e) `EN3V3` asserted. -/
def State.raiseRails (s : State) : State :=
  (((((s.floatPin .atest0).floatPin .atest1).assertPin .en1v8).delay s.params.tRail).deassertPin .csn).assertPin .en3v3

/-- POWER_UP (41_power_seq R120). -/
def execPowerUp (s : State) : Host.Outcome State Fault Refusal :=
  .next (s.raiseRails.finish .ok 0)

end Sys2Proof.Machine
end

