-- ==== Sys2Proof/Machine/Registers.lean ====
section
/-! DEFINITION. The Register Access Layer (43_register_access): REG_READ, REG_WRITE, STATUS, STROBE. Each is one transaction
and a truncation of what comes back. An address of 8 bits is refused by name (93 U4, log 8). -/

namespace Sys2Proof.Machine

/-- The end of REG_READ: `RESULT <- zext_32(r[15:0])` (43_register_access R150). -/
def State.endRegRead (s : State) : State := s.finish .ok ((lowValue s.acc).setWidth 32)

/-- The end of REG_WRITE: the result is discarded (43_register_access R153). -/
def State.endRegWrite (s : State) : State := s.finish .ok 0

/-- The end of STATUS: `RESULT <- zext_32(r[7:0])` (43_register_access R155). -/
def State.endStatus (s : State) : State := s.finish .ok ((lowByte s.acc).setWidth 32)

/-- The end of STROBE: `RESULT <- zext_32(r[7:0])` (43_register_access R157). -/
def State.endStrobe (s : State) : State := s.finish .ok ((lowByte s.acc).setWidth 32)

/-- REG_READ (43_register_access R150). -/
def execRegRead (addr : BitVec 8) (s : State) : Host.Outcome State Fault Refusal :=
  if addrInRange addr then .next (s.transaction 24 (readWord addr)).endRegRead
  else .refused .addrAbove7Bits

/-- REG_WRITE (43_register_access R153). -/
def execRegWrite (addr : BitVec 8) (value : Value) (s : State) : Host.Outcome State Fault Refusal :=
  if addrInRange addr then .next (s.transaction 24 (writeWord addr value)).endRegWrite
  else .refused .addrAbove7Bits

/-- STATUS (43_register_access R155). -/
def execStatus (s : State) : Host.Outcome State Fault Refusal :=
  .next (s.transaction 8 statusWord).endStatus

/-- STROBE (43_register_access R157). -/
def execStrobe (addr : BitVec 8) (s : State) : Host.Outcome State Fault Refusal :=
  if addrInRange addr then .next (s.transaction 8 (strobeWord addr)).endStrobe
  else .refused .addrAbove7Bits

end Sys2Proof.Machine
end

