-- ==== Sys2Proof/Machine/Dispatch.lean ====
section
/-! DEFINITION. One arm per instruction, each one call of its meaning. -/

namespace Sys2Proof.Machine

def exec (i : Instr) (s : State) : Host.Outcome State Fault Refusal :=
  match i with
  | .gpioInit => Sys2Proof.Machine.execGpioInit s
  | .powerUp => Sys2Proof.Machine.execPowerUp s
  | .transact len out => Sys2Proof.Machine.execTransact len out s
  | .regRead addr => Sys2Proof.Machine.execRegRead addr s
  | .regWrite addr value => Sys2Proof.Machine.execRegWrite addr value s
  | .status => Sys2Proof.Machine.execStatus s
  | .strobe addr => Sys2Proof.Machine.execStrobe addr s
  | .chipReset => Sys2Proof.Machine.execChipReset s
  | .f8Select addr => Sys2Proof.Machine.execF8Select addr s
  | .f24Read addr => Sys2Proof.Machine.execF24Read addr s
  | .f24Write addr data => Sys2Proof.Machine.execF24Write addr data s

end Sys2Proof.Machine
end

