-- ==== Sys2Proof/Decode.lean ====
section
/-! DEFINITION. The decoder of command words (30_encoding R81 to R85) and of wire frames (R88, R89, R101), and after it
the encoder, from the same tables. -/

namespace Sys2Proof

/-- Why a word has no row in spec/opcode_table.json. -/
inductive Reject where
  /-- `OP` is 0 or 9 to 15 (30_encoding R82). -/
  | reservedOp
  /-- `RSV` is not 0. -/
  | reservedField
  /-- `ARG8` is not 0 in a row that requires 0. -/
  | unusedArg8
  /-- `DATA`, or `DATA[31:16]` of REG_WRITE, is not 0 in a row that requires 0. -/
  | unusedData
  /-- An 8-bit frame with the read flag set, or a 24-bit read frame with a data phase that is not 0 (93 U15). -/
  | rawFrame
  /-- A length that is no format's. -/
  | noFormat
  deriving DecidableEq, Repr

/-- What a decoder answers. -/
inductive Decoded where
  | instr (i : Instr)
  | rejected (why : Reject)
  deriving DecidableEq, Repr

/-- The instruction decoded, if any. -/
def Decoded.toOption : Decoded → Option Instr
  | .instr i => some i
  | .rejected _ => none

/-- `OP`, bits 47:44. -/
def cmdOp (w : CmdWord) : BitVec 4 := w.extractLsb' 44 4
/-- `RSV`, bits 43:40. -/
def cmdRsv (w : CmdWord) : BitVec 4 := w.extractLsb' 40 4
/-- `ARG8`, bits 39:32. -/
def cmdArg8 (w : CmdWord) : BitVec 8 := w.extractLsb' 32 8
/-- `DATA`, bits 31:0. -/
def cmdData (w : CmdWord) : Word := w.extractLsb' 0 32

/-- `DATA` must be 0. -/
def withoutData (data : Word) (i : Instr) : Decoded :=
  if data = 0 then .instr i else .rejected .unusedData

/-- `ARG8` and `DATA` must be 0. -/
def withoutOperands (arg8 : BitVec 8) (data : Word) (i : Instr) : Decoded :=
  if arg8 = 0 then withoutData data i else .rejected .unusedArg8

/-- The command decoder (30_encoding R83). A word that no row matches is rejected by name; an operand outside its
contract is not (R86: such a word "matches its row of rule R83 and is not REFUSED"). -/
def decodeCommand (w : CmdWord) : Decoded :=
  if cmdRsv w ≠ 0 then .rejected .reservedField else
  match (cmdOp w).toNat with
  | 1 => withoutOperands (cmdArg8 w) (cmdData w) .gpioInit
  | 2 => withoutOperands (cmdArg8 w) (cmdData w) .powerUp
  | 3 => .instr (.transact (cmdArg8 w) (cmdData w))
  | 4 => withoutData (cmdData w) (.regRead (cmdArg8 w))
  | 5 => withoutData (cmdData w >>> 16) (.regWrite (cmdArg8 w) ((cmdData w).extractLsb' 0 16))
  | 6 => withoutOperands (cmdArg8 w) (cmdData w) .status
  | 7 => withoutData (cmdData w) (.strobe (cmdArg8 w))
  | 8 => withoutOperands (cmdArg8 w) (cmdData w) .chipReset
  | _ => .rejected .reservedOp

/-- Format `F8` (30_encoding R88): bit 7 is `RF`, bits 6:0 are `ADDR`. -/
def decodeF8 (w : BitVec 8) : Decoded :=
  if w.getLsbD 7 then .rejected .rawFrame else .instr (.f8Select (w.extractLsb' 0 7))

/-- Format `F24` (30_encoding R89): bit 23 is `RF`, bits 22:16 are `ADDR`, bits 15:0 are `DATA`. -/
def decodeF24 (w : BitVec 24) : Decoded :=
  if w.getLsbD 23 then
    if w.extractLsb' 0 16 = 0 then .instr (.f24Read (w.extractLsb' 16 7)) else .rejected .rawFrame
  else .instr (.f24Write (w.extractLsb' 16 7) (w.extractLsb' 0 16))

/-- The frame that `len` bits of an output word make on the wire (30_encoding R87, R101). -/
def decodeFrame (len : Nat) (out : Word) : Decoded :=
  match len with
  | 8 => decodeF8 (out.setWidth 8)
  | 24 => decodeF24 (out.setWidth 24)
  | _ => .rejected .noFormat

/-- The decoder of all of spec/opcode_table.json: the frames by their widths 8 and 24, else a command word. -/
def decodeTable (nbits : Nat) (w : CmdWord) : Decoded :=
  match nbits with
  | 8 => decodeFrame 8 (w.setWidth 32)
  | 24 => decodeFrame 24 (w.setWidth 32)
  | _ => decodeCommand w

/-- What the decoder reads from an instruction whose bits, numbered as spec/opcode_table.json numbers them, are `w`. A
command word and a frame are one word each, so no words are to be put in order. -/
def decodeTableWord (nbits w : Nat) : Option Instr :=
  (decodeTable nbits (BitVec.ofNat 48 w)).toOption

/-- How many bits the instruction's row has. -/
def Instr.width : Instr → Nat
  | .f8Select _ => 8
  | .f24Read _ | .f24Write _ _ => 24
  | _ => 48

/-- A command word from its fields (30_encoding R81). -/
def cmdWord (op : BitVec 4) (arg8 : BitVec 8) (data : Word) : CmdWord :=
  (op.setWidth 48 <<< 44) ||| (arg8.setWidth 48 <<< 32) ||| data.setWidth 48

/-- A 24-bit frame from its fields (30_encoding R89), in the low bits. -/
def frame24 (rf : BitVec 1) (addr : Addr) (data : Value) : CmdWord :=
  (rf.setWidth 48 <<< 23) ||| (addr.setWidth 48 <<< 16) ||| data.setWidth 48

/-- The word of an instruction (30_encoding R83, R88, R89); a frame stands in the low bits. -/
def encode : Instr → CmdWord
  | .gpioInit => cmdWord 1 0 0
  | .powerUp => cmdWord 2 0 0
  | .transact len out => cmdWord 3 len out
  | .regRead addr => cmdWord 4 addr 0
  | .regWrite addr value => cmdWord 5 addr (value.setWidth 32)
  | .status => cmdWord 6 0 0
  | .strobe addr => cmdWord 7 addr 0
  | .chipReset => cmdWord 8 0 0
  | .f8Select addr => addr.setWidth 48
  | .f24Read addr => frame24 1 addr 0
  | .f24Write addr data => frame24 0 addr data

end Sys2Proof
end

