-- ==== Sys2Proof/Machine/Sequencer.lean ====
section
/-! DEFINITION. The sequencer one primitive at a time (10_state R45, 42_transport R144), with the delay timer counting
down. `exec` runs an operation as a whole; this is the same operation at the grain of single pin events. -/

namespace Sys2Proof.Machine

/-- `SEQ <- q`. -/
def State.goTo (q : Seq) (s : State) : State := { s with seq := q }

/-- The position after a delay's own (42_transport R144, 41_power_seq R120); a position that is no delay stays. -/
def afterDelay : Seq → Seq
  | .powerUp .settle => .powerUp .deselect
  | .link c len out .setupWait => .link c len out .rise
  | .link c len out .holdWait => .link c len out .fall
  | .link c len out .trailWait => .link c len out .deselect
  | q => q

/-- SEQ leaves a delay's position once DLY is 0, and not before (10_state R26, R45). -/
def State.passDelay (s : State) : State := s.goTo (if s.dly = 0 then afterDelay s.seq else s.seq)

/-- The first step of `delay(T)`: the event, and DLY loaded; a delay of 0 is over at once (10_state R26; DESIGN CHOICE,
log 21). -/
def State.enterDelay (t : Nat) (s : State) : State := (s.startDelay t).passDelay

/-- `DLY <- n`. -/
def State.setDly (n : Nat) (s : State) : State := { s with dly := n }

/-- One tick of the delay timer; the one that brings DLY to 0 ends the delay (10_state R26; DESIGN CHOICE, log 21). -/
def State.countDown (s : State) : State := (s.setDly (s.dly - 1)).passDelay

/-- `T_DONE` (42_transport R144): the accumulator is returned to the calling operation, which ends or goes on. -/
def State.linkDone (c : Caller) (len : Nat) (out : Word) (s : State) : State :=
  match c with
  | .frame => s.goTo .idle
  | .transact => s.endTransact len out
  | .regRead => s.endRegRead
  | .regWrite => s.endRegWrite
  | .status => s.endStatus
  | .strobe => s.endStrobe
  | .chipReset => s.resetContinue

/-- One micro-phase of a TRANSACT, the table of 42_transport R144; SEQ stays at a delay phase until its delay is over
(10_state R45). A `len` outside 1 to 32 has no behaviour in the spec
(R145(c)): `step` refuses it, and what stands here for it is DESIGN CHOICE (log 22). -/
def State.linkTick (c : Caller) (len : Nat) (out : Word) (ph : LinkPhase) (s : State) : State :=
  match ph with
  | .load => (s.loadAcc len out).goTo (.link c len out .select)
  | .select => (s.assertPin .csn).goTo (.link c len out .drive)
  | .drive => (s.drive .mosi (s.acc.getLsbD s.bitidx.toNat)).goTo (.link c len out .setupWait)
  | .setupWait => s.enterDelay s.params.tSetup
  | .rise => (s.drive .sclk true).goTo (.link c len out .sample)
  | .sample => (s.sampleInto s.bitidx.toNat).goTo (.link c len out .holdWait)
  | .holdWait => s.enterDelay s.params.tHold
  | .fall =>
    if s.bitidx.toNat = 0 then (s.drive .sclk false).goTo (.link c len out .trailWait)
    else ((s.drive .sclk false).setIndex (s.bitidx.toNat - 1)).goTo (.link c len out .drive)
  | .trailWait => s.enterDelay s.params.tTrail
  | .deselect => (s.deassertPin .csn).goTo (.link c len out .done)
  | .done => s.linkDone c len out

/-- One step of GPIO_INIT (40_gpio_init R110, R114). The last is also the end of the operation (DESIGN CHOICE, log 25). -/
def State.gpioTick (ph : GpioPhase) (s : State) : State :=
  match ph with
  | .func => s.gpioFunc.goTo (.gpioInit .dir)
  | .dir => s.gpioDir.goTo (.gpioInit .low)
  | .low => s.gpioLow.finish .ok 0

/-- One primitive of POWER_UP (41_power_seq R120). SEQ stays at step (c) until its delay is over (10_state R45).
The last step is also the end of the operation (DESIGN CHOICE, log 25). -/
def State.powerTick (ph : PowerPhase) (s : State) : State :=
  match ph with
  | .func0 => (s.setFunc .atest0 funcGpio).goTo (.powerUp .dir0)
  | .dir0 => (s.setDir .atest0 .input).goTo (.powerUp .pull0)
  | .pull0 => (s.setPull .atest0 .none).goTo (.powerUp .func1)
  | .func1 => (s.setFunc .atest1 funcGpio).goTo (.powerUp .dir1)
  | .dir1 => (s.setDir .atest1 .input).goTo (.powerUp .pull1)
  | .pull1 => (s.setPull .atest1 .none).goTo (.powerUp .core)
  | .core => (s.assertPin .en1v8).goTo (.powerUp .settle)
  | .settle => s.enterDelay s.params.tRail
  | .deselect => (s.deassertPin .csn).goTo (.powerUp .io)
  | .io => (s.assertPin .en3v3).finish .ok 0

/-- One step of the sequencer (10_state R45). While the delay timer runs it counts down, SEQ at the delay's position, and
nothing else happens (10_state R26); at IDLE nothing happens. -/
def State.tick (s : State) : State :=
  match s.seq with
  | .idle => s
  | .gpioInit ph => if s.dly = 0 then s.gpioTick ph else s.countDown
  | .powerUp ph => if s.dly = 0 then s.powerTick ph else s.countDown
  | .link c len out ph => if s.dly = 0 then s.linkTick c len out ph else s.countDown

/-- `n` steps of the sequencer. -/
def State.ticks : Nat → State → State
  | 0, s => s
  | n + 1, s => s.tick.ticks n

/-- The first position of an instruction's run, with the operands of its inner TRANSACT formed (10_state R23). The operand
contracts are `exec`'s and `step`'s to check: out of contract this is no run of the machine (DESIGN CHOICE, log 22). -/
def State.begin (i : Instr) (s : State) : State :=
  match i with
  | .gpioInit => s.goTo (.gpioInit .func)
  | .powerUp => s.goTo (.powerUp .func0)
  | .transact len out => s.goTo (.link .transact len.toNat out .load)
  | .regRead addr => s.goTo (.link .regRead 24 (readWord addr) .load)
  | .regWrite addr value => s.goTo (.link .regWrite 24 (writeWord addr value) .load)
  | .status => s.goTo (.link .status 8 statusWord .load)
  | .strobe addr => s.goTo (.link .strobe 8 (strobeWord addr) .load)
  | .chipReset => s.beginReset
  | .f8Select addr => s.goTo (.link .frame 8 (strobeWord (addrField addr)) .load)
  | .f24Read addr => s.goTo (.link .frame 24 (readWord (addrField addr)) .load)
  | .f24Write addr data => s.goTo (.link .frame 24 (writeWord (addrField addr) data) .load)

end Sys2Proof.Machine
end

