-- ==== Sys2Proof/Machine/Fetch.lean ====
section
/-! DEFINITION. What the next step runs (10_state R27, R45; 20_memory R76): the core fetches no instructions; at IDLE the
host's next command word is latched and decoded, and a running operation goes on from its position. -/

namespace Sys2Proof.Machine

/-- What the next step is: run an instruction in a state, settle in a state without one, or be refused. -/
inductive Fetched where
  | run (i : Instr) (s : State)
  | settled (s : State)
  | refuse (r : Refusal)

/-- A reserved word (30_encoding R85, 60_exceptions R200): the operation ends at once with REFUSED and `RESULT = 0`. -/
def State.refuseWord (s : State) : State := s.finish .refused 0

/-- The latched command word is decoded (60_exceptions R192). -/
def State.startCommand (s : State) : Fetched :=
  match decodeCommand s.cmd with
  | .instr i => .run i s
  | .rejected _ => .settled s.refuseWord

/-- At IDLE: a latched command not yet started is started; else the host's next word is accepted and started; with no word
from the host the core waits (60_exceptions R214). The spec names no position for the time between the accepted write of
`CMD` and the operation's first step; SEQ stays at IDLE with BUSY 1 there (DESIGN CHOICE, log 24). -/
def State.fetchCommand (s : State) : Fetched :=
  if s.busy then s.startCommand
  else match s.host with
    | [] => .settled s
    | w :: rest => State.startCommand ({ s with host := rest }.accept w)

/-- Before an inner TRANSACT (`T_LOAD`): CHIP_RESET goes on as a whole; of any other caller the wire frame runs as a
whole; a raw frame (30_encoding R90) goes on one primitive at a time. A length outside 1 to 32 is refused (93 U1, U2).
Of an output word wider than the frame only the frame's bits are sent, so ACC above them is 0 after it (DESIGN CHOICE,
log 23). -/
def State.fetchFrame (c : Caller) (len : Nat) (out : Word) (s : State) : Fetched :=
  if len = 0 then .refuse .lenZero
  else if 32 < len then .refuse .lenAbove32
  else if c = .chipReset then .run .chipReset s
  else match decodeFrame len out with
    | .instr i => .run i s
    | .rejected _ => .settled s.tick

/-- What the next step runs. -/
def State.fetch (s : State) : Fetched :=
  match s.seq with
  | .idle => s.fetchCommand
  | .link c len out .load => if s.dly = 0 then s.fetchFrame c len out else .settled s.tick
  | _ => .settled s.tick

/-- An instruction's bits placed where the next step takes them: a wire frame before the inner TRANSACT of no caller, a
command word as the host's next (log 12). -/
def State.placeWord (nbits w : Nat) (s : State) : State :=
  match nbits with
  | 8 => { s with seq := .link .frame 8 ((BitVec.ofNat 8 w).setWidth 32) .load, dly := 0 }
  | 24 => { s with seq := .link .frame 24 ((BitVec.ofNat 24 w).setWidth 32) .load, dly := 0 }
  | _ => { s with seq := .idle, busy := false, host := BitVec.ofNat 48 w :: s.host }

end Sys2Proof.Machine
end

