-- ==== Sys2Proof/Machine/HostPort.lean ====
section
/-! DEFINITION. What the outside world can do to the core: the three host registers (10_state R27 to R29, R44) and the
external reset (70_reset_and_hazards R220). -/

namespace Sys2Proof.Machine

/-- A host write to a host register. Only `CMD` can be written (10_state R44), and only while `BUSY = 0` (R27, R211). -/
def State.hostWrite (s : State) (reg : Nat) (w : CmdWord) : Host.Outcome State Fault Refusal :=
  match reg with
  | 0 => if s.busy then .refused .cmdWhileBusy else .next (s.accept w)
  | 1 => .refused .readOnlyHostRegister
  | 2 => .refused .readOnlyHostRegister
  | _ => .refused .noSuchHostRegister

/-- A host read of a host register, zero-extended; it changes nothing. `CMD` reads as "nothing defined" (10_state R27):
a free value (log 13). A number above 2 names no register. -/
def State.hostRead (s : State) (reg : Nat) : Option CmdWord :=
  match reg with
  | 0 => some (Config.cmdRead s.history)
  | 1 => some (s.result.setWidth 48)
  | 2 => some (s.stat.setWidth 48)
  | _ => none

/-- The external reset (70_reset_and_hazards R220): every piece of state goes to its value of 10_state R47, at any point.
It is the outside world's move, and no `step` makes it (log 15). -/
def State.externalReset (s : State) : State := State.afterReset s.params s.history

end Sys2Proof.Machine
end

