-- ==== Sys2Proof/Safety.lean ====
section
/-! DEFINITION. The words that claims use: what a transaction puts in the trace and in the accumulator (42_transport R140,
R141), the window law (R142), how an execution of CHIP_RESET can end (44_reset_seq), the pins as GPIO_INIT leaves them
(10_state R36), and the invariant of the machine. -/


namespace Sys2Proof

open Sys2Proof.Machine

/-- The bit events of a transaction (42_transport R141) whose samples are `levels`, the first sample first: each level
belongs to the bit position that is as many below the top as there are levels before it. -/
def bitEvents (p : Params) (out : Word) : List Level → List Event
  | [] => []
  | l :: levels =>
    [.w .mosi (out.getLsbD levels.length), .d p.tSetup, .w .sclk true, .s .miso l, .d p.tHold, .w .sclk false]
      ++ bitEvents p out levels

/-- The events of a transaction (42_transport R141). -/
def transactionEvents (p : Params) (out : Word) (levels : List Level) : List Event :=
  [.w .csn (p.active .csn)] ++ bitEvents p out levels ++ [.d p.tTrail, .w .csn (p.idle .csn)]

/-- An accumulator with the lowest bits overwritten by `levels`, the first level highest (42_transport R135). -/
def overlay (a : Word) : List Level → Word
  | [] => a
  | l :: levels => overlay (setBit a levels.length l) levels

/-- The number whose bits are `levels`, the first most significant (42_transport R140). -/
def levelsWord (levels : List Level) : Word := overlay 0 levels

/-- The levels that the next `n` samples return when the chip's answers hold at least so many and the core does not
drive MISO, or when it does (10_state R35). -/
def heardLevels (s : State) (n : Nat) : List Level :=
  if pinDriven s.pins.miso then List.replicate n s.pins.miso.out else s.answers.take n

/-- The next `n` samples are settled by the state: the core drives MISO, or the chip's answers hold at least so many. -/
def answersKnown (s : State) (n : Nat) : Prop :=
  pinDriven s.pins.miso = true ∨ n ≤ s.answers.length

/-- The pins after a transaction (42_transport R145(e)): MOSI at the last bit, SCLK low, CSN idle. -/
def restPins (s : State) (out : Word) : Pins :=
  ((s.pins.setOut .mosi (out.getLsbD 0)).setOut .sclk false).setOut .csn (s.params.idle .csn)

/-- The state after the transaction window of `out` when the samples were `levels`. -/
def afterWindow (s : State) (out : Word) (levels : List Level) : State :=
  { s with
    acc := overlay out levels
    bitidx := 0
    dly := 0
    pins := restPins s out
    trace := s.trace ++ transactionEvents s.params out levels
    answers := if pinDriven s.pins.miso then s.answers else s.answers.drop levels.length }

/-- The window law (42_transport R142) over a stretch of the trace: every store to MOSI or SCLK stands while chip-select
is asserted. `selected` says whether it is at the start. -/
def eventsInWindow (p : Params) : Bool → List Event → Bool
  | _, [] => true
  | selected, e :: es =>
    match e with
    | .w .csn l => eventsInWindow p (l == p.active .csn) es
    | .w .mosi _ => selected && eventsInWindow p selected es
    | .w .sclk _ => selected && eventsInWindow p selected es
    | _ => eventsInWindow p selected es

/-- The instructions that are operations of the host (00_scope R2); the others are wire frames. -/
def Instr.isCommand : Instr → Bool
  | .f8Select _ | .f24Read _ | .f24Write _ _ => false
  | _ => true

/-- The instructions that put exactly one frame on the wire (00_scope R3, 30_encoding R97). -/
def Instr.isOneFrame : Instr → Bool
  | .gpioInit | .powerUp | .chipReset => false
  | _ => true

/-- Match and mask of an instruction's row (30_encoding R83, R88, R89). -/
def Instr.row : Instr → CmdWord × CmdWord
  | .gpioInit => (0x100000000000, 0xFFFFFFFFFFFF)
  | .powerUp => (0x200000000000, 0xFFFFFFFFFFFF)
  | .transact _ _ => (0x300000000000, 0xFF0000000000)
  | .regRead _ => (0x400000000000, 0xFF00FFFFFFFF)
  | .regWrite _ _ => (0x500000000000, 0xFF00FFFF0000)
  | .status => (0x600000000000, 0xFFFFFFFFFFFF)
  | .strobe _ => (0x700000000000, 0xFF00FFFFFFFF)
  | .chipReset => (0x800000000000, 0xFFFFFFFFFFFF)
  | .f8Select _ => (0x00, 0x80)
  | .f24Read _ => (0x800000, 0x80FFFF)
  | .f24Write _ _ => (0x000000, 0x800000)

/-- The 16-bit value of a 24-bit frame's samples (43_register_access R151): the last sixteen, the first of them highest. -/
def readback (levels : List Level) : Value := lowValue (levelsWord levels)

/-- The levels of the transaction that comes after `skip` samples, when the chip's answers hold it and the core does not
drive MISO. -/
def answersOf (s : State) (skip : Nat) : List Level := (s.answers.drop skip).take 24

/-- The events of the write of sentinel A (44_reset_seq R172) whose samples are `levels`. -/
def disableWriteEvents (p : Params) (levels : List Level) : List Event :=
  transactionEvents p ((p.mainAddr.setWidth 32) <<< 16) levels

/-- The events of the write of sentinel B (44_reset_seq R174). -/
def enableWriteEvents (p : Params) (levels : List Level) : List Event :=
  transactionEvents p (((p.mainAddr.setWidth 32) <<< 16) ||| 0x8000) levels

/-- The word of a poll (44_reset_seq R173). -/
def pollWord (p : Params) : Word := ((p.mainAddr.setWidth 8 ||| 0x80).setWidth 32) <<< 16

/-- The events of a poll (44_reset_seq R173). -/
def pollEvents (p : Params) (levels : List Level) : List Event := transactionEvents p (pollWord p) levels

/-- A phase that has made `polls` polls may make another (44_reset_seq R178, R179). -/
def mayPollAgain (p : Params) (polls : Nat) : Prop := ∀ l, p.pollLimit = some l → polls < l

/-- `t` stands before the next poll of a phase of CHIP_RESET that was running or begun in `s` (44_reset_seq R173, R175):
nothing is reported yet. -/
def standsPolling (s t : State) (rst : Rst) (polls : Nat) : Prop :=
  t.seq = .link .chipReset 24 (pollWord s.params) .load ∧ t.rst = rst ∧ t.pollcnt = polls ∧ t.dly = 0 ∧
    t.busy = s.busy ∧ t.result = s.result ∧ t.outcome = s.outcome

/-- CHIP_RESET has ended in Done (44_reset_seq R177). -/
def resetDone (t : State) : Prop :=
  t.rst = .done ∧ t.result = 0 ∧ t.outcome = .ok ∧ t.busy = false ∧ t.seq = .idle

/-- CHIP_RESET, running or begun in `s`, has ended in `t` with TIMEOUT (44_reset_seq R179, 60_exceptions R199): in the phase
`phase`, after `polls` polls of it, of which the last sampled `levels`. -/
def resetTimedOut (s t : State) (phase : Bool) (polls : Nat) (levels : List Level) : Prop :=
  t.rst = .failed ∧ t.outcome = .timeout ∧ t.busy = false ∧ t.seq = .idle ∧
    t.result.extractLsb' 0 16 = readback levels ∧ t.result.extractLsb' 16 16 = (if phase then 1 else 0) ∧
    t.pollcnt = polls ∧ t.acc = levelsWord levels ∧
    t.pins.csn.out = s.params.idle .csn ∧ t.pins.sclk.out = false ∧ t.pins.mosi.out = false ∧
    ∀ r : Role, r ≠ .csn → r ≠ .mosi → r ≠ .sclk → t.pins.ofRole r = s.pins.ofRole r

/-- How many rising clock edges a stretch of the trace holds. -/
def clockPulses (es : List Event) : Nat := es.countP (· == .w .sclk true)

/-- Function and direction of every pin are as GPIO_INIT leaves them (10_state R36, R37). -/
def pinsInitialised (p : Pins) : Prop :=
  (∀ r : Role, (p.ofRole r).func = funcGpio ∧ (p.ofRole r).dir = initialDir (some r)) ∧
  ∀ c ∈ p.extras, c.func = funcGpio ∧ c.dir = .input

/-- An operation of the host is running at this position (10_state R23, R29). A bare frame is none (log 9). -/
def runsOperation : Seq → Bool
  | .idle => false
  | .link .frame _ _ _ => false
  | _ => true

/-- The micro-phases between the assert and the deassert of chip-select (42_transport R144). -/
def insideWindow : LinkPhase → Bool
  | .drive | .setupWait | .rise | .sample | .holdWait | .fall | .trailWait | .deselect => true
  | .load | .select | .done => false

/-- The micro-phases from the load of `BITIDX` to the end of the bit loop (42_transport R144). -/
def insideBitLoop : LinkPhase → Bool
  | .select | .drive | .setupWait | .rise | .sample | .holdWait | .fall => true
  | _ => false

/-- How many ticks the delay of a position lasts (42_transport R144, 41_power_seq R120), where it is a delay's. -/
def delayAt (p : Params) : Seq → Option Nat
  | .powerUp .settle => some p.tRail
  | .link _ _ _ .setupWait => some p.tSetup
  | .link _ _ _ .holdWait => some p.tHold
  | .link _ _ _ .trailWait => some p.tTrail
  | _ => none

/-- The invariant of the machine. -/
structure Machine.State.Inv (s : State) : Prop where
  /-- `BUSY` is 1 while an operation runs (10_state R29). -/
  busy_while_running : runsOperation s.seq = true → s.busy = true
  /-- `DLY` is at most the length of the delay that SEQ stands at, and 0 at every other position, IDLE among them
  (10_state R26, R45; 60_exceptions R206). -/
  timer_in_delay : s.dly ≤ (delayAt s.params s.seq).getD 0
  /-- Every inner TRANSACT has a length of 1 to 32 (42_transport R130). -/
  length_in_range : ∀ c len out ph, s.seq = .link c len out ph → 1 ≤ len ∧ len ≤ 32
  /-- `BITIDX` names one of the transaction's bits until the bit loop ends (10_state R22). -/
  index_in_range : ∀ c len out ph, s.seq = .link c len out ph → insideBitLoop ph = true → s.bitidx.toNat < len
  /-- Chip-select is asserted from the first bit to the deassert (42_transport R142). -/
  selected_in_window : ∀ c len out ph, s.seq = .link c len out ph → insideWindow ph = true →
    s.pins.csn.out = s.params.active .csn
  /-- `PINS` is fixed (00_scope R8). -/
  pins_fixed : s.pins.extras.length = s.params.extraPins

end Sys2Proof
end

