-- ==== Sys2Proof/Certificates/Slice0/Obligations.lean ====
section
/-! DEFINITION. The statements for the provers. -/

open Sys2Proof Sys2Proof.Machine

/-! ## Encodings -/

/-- The example words of 30_encoding R83 and 95_test_vectors 3.1, 3.2 decode to the instructions they stand for. -/
def Obligations.SpecWordsDecode : Prop :=
  decodeTableWord 48 0x100000000000 = some .gpioInit ∧
  decodeTableWord 48 0x200000000000 = some .powerUp ∧
  decodeTableWord 48 0x3008000000A5 = some (.transact 8 0xA5) ∧
  decodeTableWord 48 0x407F00000000 = some (.regRead 0x7F) ∧
  decodeTableWord 48 0x500900001234 = some (.regWrite 0x09 0x1234) ∧
  decodeTableWord 48 0x600000000000 = some .status ∧
  decodeTableWord 48 0x706100000000 = some (.strobe 0x61) ∧
  decodeTableWord 48 0x800000000000 = some .chipReset ∧
  decodeTableWord 8 0x61 = some (.f8Select 0x61) ∧
  decodeTableWord 24 0x890000 = some (.f24Read 0x09) ∧
  decodeTableWord 24 0x091234 = some (.f24Write 0x09 0x1234)

/-- Decoding an instruction's word gives the instruction back, every operand at every value of its field. -/
def Obligations.DecodeOfEncode : Prop :=
  ∀ i : Instr, decodeTable i.width (encode i) = .instr i

/-- Each word has one meaning: a decoded word is the encoding of what it decodes to, command words and frames alike. -/
def Obligations.EncodeOfDecode : Prop :=
  (∀ (w : CmdWord) (i : Instr), decodeCommand w = .instr i → encode i = w) ∧
  (∀ (w : BitVec 8) (i : Instr), decodeF8 w = .instr i → encode i = w.setWidth 48) ∧
  (∀ (w : BitVec 24) (i : Instr), decodeF24 w = .instr i → encode i = w.setWidth 48)

/-- A command word is read as an instruction exactly when it matches a row of 30_encoding R83, and then it matches the row
of that instruction (the command word is the spec's own convention, D2). -/
def Obligations.CommandRowsDecideDecoding : Prop :=
  (∀ (w : CmdWord) (i : Instr), decodeCommand w = .instr i → w &&& i.row.2 = i.row.1) ∧
  (∀ (w : CmdWord) (j : Instr), j.isCommand = true → w &&& j.row.2 = j.row.1 →
    ∃ i, decodeCommand w = .instr i ∧ i.row = j.row)

/-- The frame words carry flag, address and data in the places of 30_encoding R88 and R89: `0aaaaaaa`, `1aaaaaaa` with a
data phase of zeros, `0aaaaaaa` with the value. -/
def Obligations.FrameWordLayout : Prop :=
  (∀ a : Addr, (strobeWord (addrField a)).setWidth 8 = 0#1 ++ a) ∧
  (∀ a : Addr, (readWord (addrField a)).setWidth 24 = 1#1 ++ a ++ 0#16) ∧
  (∀ (a : Addr) (v : Value), (writeWord (addrField a) v).setWidth 24 = 0#1 ++ a ++ v)

/-! ## Reset, the invariant, whole-machine rules -/

/-- What 10_state R47 gives a value at reset (the spec's decision D15); what it leaves unspecified is a free value (log 6). -/
def Obligations.ResetLeavesControlIdle : Prop :=
  State.reset.seq = .idle ∧ State.reset.busy = false ∧ State.reset.outcome = .ok ∧ State.reset.rst = .idle ∧
  State.reset.pollcnt = 0 ∧ State.reset.dly = 0 ∧ State.reset.trace = [] ∧ State.reset.stat = 0

/-- The external reset (70_reset R220, an outside move, log 15) puts any state, in the middle of an operation too, to the
values of R47. The model keeps the trace before it, for the free values after it (log 15). -/
def Obligations.ExternalResetFromAnyState : Prop :=
  ∀ s : State, s.externalReset.seq = .idle ∧ s.externalReset.busy = false ∧ s.externalReset.outcome = .ok ∧
    s.externalReset.rst = .idle ∧ s.externalReset.pollcnt = 0 ∧ s.externalReset.dly = 0 ∧
    s.externalReset.trace = [] ∧ s.externalReset.params = s.params ∧ s.externalReset.past = s.past ++ [s.trace] ∧
    s.externalReset.Inv

/-- The invariant of the machine holds right after reset. -/
def Obligations.ResetMeetsInv : Prop := State.reset.Inv

/-- Every step keeps the invariant: BUSY while an operation runs, DLY 0 outside a delay's position and within the delay's
length there, transactions of 1 to 32 bits, BITIDX
inside them, chip-select asserted inside the window, the set of pins fixed. -/
def Obligations.StepKeepsInv : Prop :=
  ∀ s t : State, s.Inv → step s = .next t → t.Inv

/-- Nothing writes a parameter (10_state R43) or the record of the earlier resets (the model's own, log 15): no execution and
no step. -/
def Obligations.StepKeepsParams : Prop :=
  (∀ (i : Instr) (s t : State), exec i s = .next t → t.params = s.params ∧ t.past = s.past) ∧
  (∀ s t : State, step s = .next t → t.params = s.params ∧ t.past = s.past)

/-- The trace only grows: no step takes an event back (10_state R46). -/
def Obligations.StepExtendsTrace : Prop :=
  ∀ s t : State, step s = .next t → ∃ es, t.trace = s.trace ++ es

/-- 10_state R36: after GPIO_INIT no step changes the direction or the function of any pin, POWER_UP included, and no step
writes `ROLE` or `POL`. -/
def Obligations.PinRolesStayAfterInit : Prop :=
  (∀ s t : State, exec .gpioInit s = .next t → pinsInitialised t.pins) ∧
  (∀ s t : State, pinsInitialised s.pins → step s = .next t →
    (∀ r : Role, (t.pins.ofRole r).dir = (s.pins.ofRole r).dir ∧ (t.pins.ofRole r).func = (s.pins.ofRole r).func) ∧
    pinsInitialised t.pins ∧ t.params = s.params) ∧
  (∀ s t : State, pinsInitialised s.pins → exec .powerUp s = .next t →
    ∀ r : Role, (t.pins.ofRole r).dir = (s.pins.ofRole r).dir ∧ (t.pins.ofRole r).func = (s.pins.ofRole r).func)

/-- 42_transport R142, for every instruction but GPIO_INIT and from any state: every store to MOSI or SCLK that an
execution makes stands while chip-select is asserted. -/
def Obligations.ClockAndDataOnlyInWindow : Prop :=
  ∀ (i : Instr) (s t : State), i ≠ .gpioInit → exec i s = .next t →
    ∃ es, t.trace = s.trace ++ es ∧ eventsInWindow s.params false es = true

/-- 60_exceptions R190: the seven operations always end with OK, and with `POLL_LIMIT = none` so does every CHIP_RESET that
ends. -/
def Obligations.OperationsEndOk : Prop :=
  (∀ (i : Instr) (s t : State), i.isCommand = true → i ≠ .chipReset → exec i s = .next t →
    t.outcome = .ok ∧ t.busy = false ∧ t.seq = .idle) ∧
  (∀ s t : State, s.params.pollLimit = none → exec .chipReset s = .next t → t.seq = .idle →
    t.outcome = .ok ∧ t.busy = false)

/-- 10_state R24: `RST` is written by CHIP_RESET only. -/
def Obligations.OnlyChipResetWritesRst : Prop :=
  ∀ (i : Instr) (s t : State), i ≠ .chipReset → exec i s = .next t → t.rst = s.rst ∧ t.pollcnt = s.pollcnt

/-! ## The step -/

/-- At IDLE the host's next word is latched in CMD, BUSY set, and the instruction it decodes to executed; a word latched
before is executed as it stands (10_state R27). That the one step is the whole operation, that the host is a list of words,
and that SEQ is IDLE until the step that executes the word, is the model's choice (log 1, log 5, log 24). -/
def Obligations.StepRunsCommand : Prop :=
  (∀ (s : State) (w : CmdWord) (rest : List CmdWord) (i : Instr), s.seq = .idle → s.busy = false → s.host = w :: rest →
    decodeCommand w = .instr i → step s = exec i { s with host := rest, cmd := w, busy := true }) ∧
  (∀ (s : State) (i : Instr), s.seq = .idle → s.busy = true → decodeCommand s.cmd = .instr i → step s = exec i s)

/-- Before an inner TRANSACT the wire frame it sends is executed, and CHIP_RESET goes on as a whole (log 1, log 9; of a wider word
only the frame's bits are sent, log 23). -/
def Obligations.StepRunsFrame : Prop :=
  (∀ (s : State) (c : Caller) (len : Nat) (out : Word) (i : Instr), s.seq = .link c len out .load → s.dly = 0 →
    c ≠ .chipReset → decodeFrame len out = .instr i → step s = exec i s) ∧
  (∀ (s : State) (len : Nat) (out : Word), s.seq = .link .chipReset len out .load → s.dly = 0 → 1 ≤ len → len ≤ 32 →
    step s = exec .chipReset s)

/-- At every other position of a running operation a step is one primitive of the sequencer (10_state R45): at the positions
of GPIO_INIT and POWER_UP, after T_LOAD, while a delay runs at T_LOAD, and at T_LOAD of a frame that is no row of the table
(30_encoding R90). While the delay timer runs a step only counts down, and the one that brings DLY to 0 moves SEQ past the
delay (R26, log 21). At T_LOAD a length outside 1 to 32 is refused by name (log 8). The grain is the model's choice (log 1). -/
def Obligations.StepOtherwiseTicks : Prop :=
  (∀ (s : State) (ph : GpioPhase), s.seq = .gpioInit ph → step s = .next s.tick) ∧
  (∀ (s : State) (ph : PowerPhase), s.seq = .powerUp ph → step s = .next s.tick) ∧
  (∀ (s : State) (c : Caller) (len : Nat) (out : Word) (ph : LinkPhase), s.seq = .link c len out ph →
    ph ≠ .load ∨ s.dly ≠ 0 → step s = .next s.tick) ∧
  (∀ (s : State) (c : Caller) (len : Nat) (out : Word) (why : Reject), s.seq = .link c len out .load → s.dly = 0 →
    c ≠ .chipReset → 1 ≤ len → len ≤ 32 → decodeFrame len out = .rejected why → step s = .next s.tick) ∧
  (∀ (s : State) (c : Caller) (len : Nat) (out : Word), s.seq = .link c len out .load → s.dly = 0 →
    (len = 0 → step s = .refused .lenZero) ∧ (32 < len → step s = .refused .lenAbove32)) ∧
  (∀ s : State, s.seq ≠ .idle → s.dly ≠ 0 →
    step s = .next { s with dly := s.dly - 1, seq := if s.dly = 1 then afterDelay s.seq else s.seq })

/-- A reserved command word (30_encoding R85, 60_exceptions R200; decision D3): no pin event, `ACC`, `RST` and the pins
unchanged, RESULT 0, OUTCOME REFUSED, BUSY set on acceptance and cleared at once. -/
def Obligations.ReservedWordIsRefused : Prop :=
  ∀ (s : State) (w : CmdWord) (rest : List CmdWord), s.seq = .idle → s.busy = false → s.host = w :: rest →
    (∀ j : Instr, j.isCommand = true → w &&& j.row.2 ≠ j.row.1) →
    step s = .next { s with host := rest, cmd := w, result := 0, outcome := .refused }

/-- With no command from the host the idle core waits (60_exceptions R214, 70_reset R221). -/
def Obligations.IdleCoreWaits : Prop :=
  ∀ s : State, s.seq = .idle → s.busy = false → s.host = [] → step s = .next s

/-! ## The host port -/

/-- 10_state R24, R29; 60_exceptions R193: the fields of STAT, the numbers that stand in them for each outcome and each state
of the Reset Sequencer, and the reserved bits 0. -/
def Obligations.StatLayout : Prop :=
  ∀ s : State, s.stat.extractLsb' 0 1 = (if s.busy then 1 else 0) ∧
    s.stat.extractLsb' 1 2 = (match s.outcome with
      | .ok => 0
      | .timeout => 1
      | .refused => 2) ∧
    s.stat.extractLsb' 3 3 = (match s.rst with
      | .idle => 0
      | .disabling => 1
      | .confirmedDisabled => 2
      | .enabling => 3
      | .confirmedEnabled => 4
      | .done => 5
      | .failed => 6) ∧
    s.stat.extractLsb' 6 2 = 0

/-- 10_state R27, R28, R44; 60_exceptions R211: a write of CMD is accepted while BUSY is 0 and has no meaning while BUSY is
1 (the model refuses it by name, log 5); SEQ stays where it is (log 24); nothing else can be written; RESULT and STAT can be read. -/
def Obligations.HostPortAccess : Prop :=
  (∀ (s : State) (w : CmdWord), s.busy = false → s.hostWrite 0 w = .next { s with cmd := w, busy := true }) ∧
  (∀ (s : State) (w : CmdWord), s.busy = true → s.hostWrite 0 w = .refused .cmdWhileBusy) ∧
  (∀ (s : State) (n : Nat) (w : CmdWord), n ≠ 0 → ∃ r, s.hostWrite n w = .refused r) ∧
  (∀ s : State, s.hostRead 1 = some (s.result.setWidth 48) ∧ s.hostRead 2 = some (s.stat.setWidth 48)) ∧
  (∀ (s : State) (n : Nat), 2 < n → s.hostRead n = none)

/-! ## GPIO_INIT -/

/-- 40_gpio_init R110 to R113: GPIO_INIT completes in every state; the function of every pin is GPIO; the direction of
every pin is out for the output roles and in for every other; the seven output roles are low, latch and line, CSN, EN1V8
and EN3V3 among them, whatever their polarity; the latches of other pins are not written; RESULT 0 and
OUTCOME OK (R110), BUSY 0 and SEQ IDLE (10_state R45, decision D1). -/
def Obligations.GpioInitSetsPins : Prop :=
  ∀ s : State, ∃ t : State, exec .gpioInit s = .next t ∧
    (∀ (p : Pin) (c : PinCtl), t.pins.get? p = some c → c.func = 0) ∧
    (∀ r : Role, (t.pins.ofRole r).dir = if r.isOutput then .output else .input) ∧
    (∀ c ∈ t.pins.extras, c.dir = .input) ∧
    (∀ r : Role, r.isOutput = true → (t.pins.ofRole r).out = false ∧ t.line (.role r) = false) ∧
    (∀ r : Role, r.isOutput = false → (t.pins.ofRole r).out = (s.pins.ofRole r).out) ∧
    t.pins.extras.map PinCtl.out = s.pins.extras.map PinCtl.out ∧
    t.result = 0 ∧ t.outcome = .ok ∧ t.busy = false ∧ t.seq = .idle

/-- The frame of GPIO_INIT (40_gpio_init R115): no pull mode, no latch of a pin without an output role, and no core register
but RESULT, OUTCOME, BUSY and the position changes. -/
def Obligations.GpioInitFrame : Prop :=
  ∀ s t : State, exec .gpioInit s = .next t →
    (∀ r : Role, (t.pins.ofRole r).pull = (s.pins.ofRole r).pull) ∧
    (∀ r : Role, r.isOutput = false → (t.pins.ofRole r).out = (s.pins.ofRole r).out) ∧
    t.pins.extras.map (fun c => (c.out, c.pull)) = s.pins.extras.map (fun c => (c.out, c.pull)) ∧
    t.acc = s.acc ∧ t.bitidx = s.bitidx ∧ t.rst = s.rst ∧ t.pollcnt = s.pollcnt ∧ t.dly = s.dly ∧ t.cmd = s.cmd ∧
    t.params = s.params ∧ t.host = s.host ∧ t.answers = s.answers

/-- 40_gpio_init R115: two GPIO_INIT leave the pins as one does. -/
def Obligations.GpioInitIdempotent : Prop :=
  ∀ s t u : State, exec .gpioInit s = .next t → exec .gpioInit t = .next u → u.pins = t.pins

/-- 40_gpio_init R114, 70_reset R241: the events of step 1 in some order, then those of step 2, then those of step 3, in all
2·P + 7 of them (the order inside a step is a free value, log 10). -/
def Obligations.GpioInitTrace : Prop :=
  ∀ s t : State, exec .gpioInit s = .next t → ∃ f d w : List Event, t.trace = s.trace ++ f ++ d ++ w ∧
    List.Perm f (s.pins.all.map fun p => .f p 0) ∧
    List.Perm d (s.pins.all.map fun p => .dirw p (initialDir (pinRole p))) ∧
    List.Perm w ([Role.csn, .sclk, .mosi, .en1v8, .en3v3, .ind0, .ind1].map fun r => .w r false) ∧
    t.trace.length = s.trace.length + (2 * (10 + s.pins.extras.length) + 7)

/-- The glitch of 40_gpio_init R116(a): between steps 2 and 3 every output role drives its line at the level its latch held
before. -/
def Obligations.GpioInitDirectionGlitch : Prop :=
  ∀ (s : State) (r : Role), r.isOutput = true → s.gpioFunc.gpioDir.line (.role r) = (s.pins.ofRole r).out

/-! ## POWER_UP -/

/-- 41_power_seq R120, R126: POWER_UP completes in every state, and its events are exactly the ten of the strict order: both
analog-test pins, `EN1V8`, the delay, `CSN` idle, `EN3V3`. The order of the six stores of the analog-test pins among
themselves is the spec's decision D21 (R121). -/
def Obligations.PowerUpStrictOrder : Prop :=
  ∀ s : State, ∃ t : State, exec .powerUp s = .next t ∧
    t.trace = s.trace ++
      [.f (.role .atest0) 0, .dirw (.role .atest0) .input, .p (.role .atest0) .none,
       .f (.role .atest1) 0, .dirw (.role .atest1) .input, .p (.role .atest1) .none,
       .w .en1v8 (s.params.active .en1v8), .d s.params.tRail, .w .csn (s.params.idle .csn),
       .w .en3v3 (s.params.active .en3v3)] ∧
    t.result = 0 ∧ t.outcome = .ok ∧ t.busy = false ∧ t.seq = .idle

/-- 41_power_seq R121 to R125, R127: the pins POWER_UP leaves, and its frame: every other pin, and every core register but
RESULT, OUTCOME, BUSY, the position and DLY, is unchanged. -/
def Obligations.PowerUpPinsAndFrame : Prop :=
  ∀ s t : State, exec .powerUp s = .next t →
    (∀ r : Role, t.pins.ofRole r = match r with
      | .atest0 => { s.pins.atest0 with func := 0, dir := .input, pull := .none }
      | .atest1 => { s.pins.atest1 with func := 0, dir := .input, pull := .none }
      | .en1v8 => { s.pins.en1v8 with out := s.params.active .en1v8 }
      | .en3v3 => { s.pins.en3v3 with out := s.params.active .en3v3 }
      | .csn => { s.pins.csn with out := s.params.idle .csn }
      | r => s.pins.ofRole r) ∧
    t.pins.extras = s.pins.extras ∧
    t.acc = s.acc ∧ t.bitidx = s.bitidx ∧ t.rst = s.rst ∧ t.pollcnt = s.pollcnt ∧ t.dly = 0 ∧ t.cmd = s.cmd ∧
    t.params = s.params ∧ t.host = s.host ∧ t.answers = s.answers

/-- 41_power_seq R127: after POWER_UP on initialised pins the chip's power state is `rail-1.8V-active`, `rail-3.3V-active`
and `deselected`, and not `selected`. -/
def Obligations.PowerUpEndState : Prop :=
  ∀ s t : State, pinsInitialised s.pins → exec .powerUp s = .next t →
    t.rail1v8Active = true ∧ t.rail3v3Active = true ∧ t.deselected = true ∧ t.selected = false ∧ t.unpowered = false

/-! ## TRANSACT -/

/-- 42_transport R139, R140, R141: a TRANSACT in contract completes in every state. For some levels, one a bit, ACC and
RESULT are the number they make, first level highest; the events are exactly those of R141; the pins are those of R145(e);
nothing else changes but BITIDX, DLY and the chip's answers. BITIDX 0 after it is the model's reading (log 18). -/
def Obligations.TransactCompletes : Prop :=
  ∀ (len : BitVec 8) (out : Word) (s : State), 1 ≤ len.toNat → len.toNat ≤ 32 → payloadFits len.toNat out = true →
    ∃ levels : List Level, levels.length = len.toNat ∧
      exec (.transact len out) s = .next { afterWindow s out levels with
        acc := levelsWord levels, seq := .idle, result := levelsWord levels, outcome := .ok, busy := false }

/-- 42_transport R140: "against a simulated chip that echoes a known bit pattern ... transact returns exactly the echoed
pattern, MSB-first": when MISO is an input and the chip's next answers are `pattern`, RESULT is `pattern` as a number. -/
def Obligations.TransactReturnsEcho : Prop :=
  ∀ (len : BitVec 8) (out : Word) (s : State) (pattern rest : List Level), 1 ≤ len.toNat → len.toNat ≤ 32 →
    payloadFits len.toNat out = true → pinDriven s.pins.miso = false → s.answers = pattern ++ rest →
    pattern.length = len.toNat →
    ∃ t : State, exec (.transact len out) s = .next t ∧ t.result = levelsWord pattern ∧ t.acc = levelsWord pattern ∧
      t.answers = rest ∧ (∀ i, (h : i < pattern.length) → t.result.getLsbD i = pattern[pattern.length - 1 - i])

/-- 42_transport R132, R141, R145(e): exactly `len` clock pulses, 6·len + 3 events; SCLK ends low, CSN idle, MOSI at
`out[0]`. -/
def Obligations.TransactPulsesAndRest : Prop :=
  ∀ (len : BitVec 8) (out : Word) (s t : State), exec (.transact len out) s = .next t →
    ∃ es, t.trace = s.trace ++ es ∧ clockPulses es = len.toNat ∧ es.length = 6 * len.toNat + 3 ∧
      t.pins.sclk.out = false ∧ t.pins.csn.out = s.params.idle .csn ∧ t.pins.mosi.out = out.getLsbD 0

/-- 93 U3, 42_transport R139, R145(d): a TRANSACT whose word is wider than its length runs; its low bits and its events are
as ever, and the bits above are not promised (a free value, log 7). BITIDX 0 after it is the model's reading (log 18). -/
def Obligations.TransactWideWord : Prop :=
  ∀ (len : BitVec 8) (out : Word) (s : State), 1 ≤ len.toNat → len.toNat ≤ 32 →
    ∃ (levels : List Level) (a : Word), levels.length = len.toNat ∧
      (∀ i < len.toNat, a.getLsbD i = (levelsWord levels).getLsbD i) ∧
      exec (.transact len out) s = .next { afterWindow s out levels with
        acc := a, seq := .idle, result := a, outcome := .ok, busy := false }

/-- 30_encoding R86, 93 U1, U2: a length of 0 or above 32 has no meaning; the model refuses it by name (log 8). -/
def Obligations.TransactLengthRefused : Prop :=
  ∀ (len : BitVec 8) (out : Word) (s : State),
    (len.toNat = 0 → exec (.transact len out) s = .refused .lenZero) ∧
    (32 < len.toNat → exec (.transact len out) s = .refused .lenAbove32)

/-! ## The register operations and the frames -/

/-- 43_register_access R150: REG_READ completes: a 24-bit transaction of `(addr | 0x80) << 16`, and RESULT is the low 16 bits
of what came back. BITIDX 0 is the model's reading (log 18); BUSY and SEQ are 10_state R45's (D1). -/
def Obligations.RegReadCompletes : Prop :=
  ∀ (addr : BitVec 8) (s : State), addr.toNat < 0x80 →
    ∃ levels : List Level, levels.length = 24 ∧
      exec (.regRead addr) s = .next { afterWindow s (((addr ||| 0x80).setWidth 32) <<< 16) levels with
        seq := .idle, result := ((levelsWord levels).extractLsb' 0 16).setWidth 32, outcome := .ok, busy := false }

/-- 43_register_access R153: REG_WRITE completes: a 24-bit transaction of `(addr << 16) | value16`, the result discarded.
BITIDX 0 is the model's reading (log 18); BUSY and SEQ are 10_state R45's (D1). -/
def Obligations.RegWriteCompletes : Prop :=
  ∀ (addr : BitVec 8) (value : Value) (s : State), addr.toNat < 0x80 →
    ∃ levels : List Level, levels.length = 24 ∧
      exec (.regWrite addr value) s = .next
        { afterWindow s (((addr.setWidth 32) <<< 16) ||| value.setWidth 32) levels with
          seq := .idle, result := 0, outcome := .ok, busy := false }

/-- 43_register_access R155: STATUS completes: an 8-bit transaction of 0, and RESULT is the byte that came back.
BITIDX 0 is the model's reading (log 18); BUSY and SEQ are 10_state R45's (D1). -/
def Obligations.StatusCompletes : Prop :=
  ∀ s : State, ∃ levels : List Level, levels.length = 8 ∧
    exec .status s = .next { afterWindow s 0 levels with
      seq := .idle, result := ((levelsWord levels).extractLsb' 0 8).setWidth 32, outcome := .ok, busy := false }

/-- 43_register_access R157: STROBE completes: an 8-bit transaction of `addr`, and RESULT is the byte that came back.
BITIDX 0 is the model's reading (log 18); BUSY and SEQ are 10_state R45's (D1). -/
def Obligations.StrobeCompletes : Prop :=
  ∀ (addr : BitVec 8) (s : State), addr.toNat < 0x80 →
    ∃ levels : List Level, levels.length = 8 ∧
      exec (.strobe addr) s = .next { afterWindow s (addr.setWidth 32) levels with
        seq := .idle, result := ((levelsWord levels).extractLsb' 0 8).setWidth 32, outcome := .ok, busy := false }

/-- 20_memory R74(c), 43_register_access R151, R162: when MISO is an input and the chip answers `header` and then `data`,
REG_READ returns exactly `data`, first level highest; the header's answers are dropped. -/
def Obligations.RegReadReturnsDataPhase : Prop :=
  ∀ (addr : BitVec 8) (s : State) (header data rest : List Level), addr.toNat < 0x80 → pinDriven s.pins.miso = false →
    s.answers = header ++ data ++ rest → header.length = 8 → data.length = 16 →
    ∃ t : State, exec (.regRead addr) s = .next t ∧ t.result = levelsWord data ∧ t.answers = rest

/-- 93 U4, 43_register_access R159: an address outside 7 bits has no meaning; the model refuses it by name (log 8). -/
def Obligations.AddressAbove7BitsRefused : Prop :=
  ∀ (addr : BitVec 8) (value : Value) (s : State), 0x80 ≤ addr.toNat →
    exec (.regRead addr) s = .refused .addrAbove7Bits ∧ exec (.regWrite addr value) s = .refused .addrAbove7Bits ∧
    exec (.strobe addr) s = .refused .addrAbove7Bits

/-- 30_encoding R97: STATUS and STROBE 0 cannot be told apart. -/
def Obligations.StatusIsStrobeZero : Prop :=
  ∀ s : State, exec .status s = exec (.strobe 0) s

/-- 30_encoding R100: each register operation has the pin events of a TRANSACT, and RESULT is that TRANSACT's, truncated. -/
def Obligations.RegisterOpsExpandToTransact : Prop :=
  (∀ (a : BitVec 8) (s t u : State), exec (.regRead a) s = .next t →
    exec (.transact 24 (((a ||| 0x80).setWidth 32) <<< 16)) s = .next u →
    t = { u with result := u.result &&& 0xFFFF }) ∧
  (∀ (a : BitVec 8) (v : Value) (s t u : State), exec (.regWrite a v) s = .next t →
    exec (.transact 24 (((a.setWidth 32) <<< 16) ||| v.setWidth 32)) s = .next u → t = { u with result := 0 }) ∧
  (∀ s t u : State, exec .status s = .next t → exec (.transact 8 0) s = .next u →
    t = { u with result := u.result &&& 0xFF }) ∧
  (∀ (a : BitVec 8) (s t u : State), exec (.strobe a) s = .next t →
    exec (.transact 8 (a.setWidth 32)) s = .next u → t = { u with result := u.result &&& 0xFF })

/-- 43_register_access R161: STATUS and STROBE give exactly 8 clock pulses and 51 events, REG_READ and REG_WRITE 24 and
147. -/
def Obligations.RegisterPulseCounts : Prop :=
  (∀ (i : Instr) (s t : State), (i = .status ∨ ∃ a, i = .strobe a) → exec i s = .next t →
    ∃ es, t.trace = s.trace ++ es ∧ clockPulses es = 8 ∧ es.length = 51) ∧
  (∀ (i : Instr) (s t : State), ((∃ a, i = .regRead a) ∨ ∃ a v, i = .regWrite a v) → exec i s = .next t →
    ∃ es, t.trace = s.trace ++ es ∧ clockPulses es = 24 ∧ es.length = 147)

/-- 43_register_access R164: the four register operations touch no state but ACC, BITIDX, DLY, the latches of CSN, MOSI and
SCLK, and the result registers (BUSY and the position end the operation, the trace and the chip's answers move on); in
particular not RST. -/
def Obligations.RegisterOpsFrame : Prop :=
  ∀ (i : Instr) (s t : State),
    ((∃ a, i = .regRead a) ∨ (∃ a v, i = .regWrite a v) ∨ i = .status ∨ (∃ a, i = .strobe a)) →
    exec i s = .next t →
    (∀ r : Role, r ≠ .csn → r ≠ .mosi → r ≠ .sclk → t.pins.ofRole r = s.pins.ofRole r) ∧
    (∀ r : Role, (t.pins.ofRole r).func = (s.pins.ofRole r).func ∧ (t.pins.ofRole r).dir = (s.pins.ofRole r).dir ∧
      (t.pins.ofRole r).pull = (s.pins.ofRole r).pull) ∧
    t.pins.extras = s.pins.extras ∧ t.rst = s.rst ∧ t.pollcnt = s.pollcnt ∧ t.cmd = s.cmd ∧ t.params = s.params ∧
    t.host = s.host

/-- The frame of TRANSACT and of the three wire frames: as that of the register operations; a wire frame besides writes no
result register (44_reset_seq R170's sub-operations, log 9). -/
def Obligations.TransactAndFramesFrame : Prop :=
  ∀ (i : Instr) (s t : State),
    ((∃ len out, i = .transact len out) ∨ (∃ a, i = .f8Select a) ∨ (∃ a, i = .f24Read a) ∨ ∃ a v, i = .f24Write a v) →
    exec i s = .next t →
    (∀ r : Role, r ≠ .csn → r ≠ .mosi → r ≠ .sclk → t.pins.ofRole r = s.pins.ofRole r) ∧
    (∀ r : Role, (t.pins.ofRole r).func = (s.pins.ofRole r).func ∧ (t.pins.ofRole r).dir = (s.pins.ofRole r).dir ∧
      (t.pins.ofRole r).pull = (s.pins.ofRole r).pull) ∧
    t.pins.extras = s.pins.extras ∧ t.rst = s.rst ∧ t.pollcnt = s.pollcnt ∧ t.cmd = s.cmd ∧ t.params = s.params ∧
    t.host = s.host ∧
    (i.isCommand = false → t.result = s.result ∧ t.outcome = s.outcome ∧ t.busy = s.busy)

/-- 30_encoding R88, R89; 44_reset_seq R170: each wire frame completes: one transaction of its word, after which the
sequencer stands at T_DONE for the caller, or at IDLE for a bare frame (42_transport R144, log 9). BITIDX 0 after it is the model's
reading (log 18). -/
def Obligations.WireFramesComplete : Prop :=
  (∀ (a : Addr) (s : State), ∃ levels : List Level, levels.length = 8 ∧
    exec (.f8Select a) s = .next { afterWindow s (a.setWidth 32) levels with seq := seqAfterFrame s.seq }) ∧
  (∀ (a : Addr) (s : State), ∃ levels : List Level, levels.length = 24 ∧
    exec (.f24Read a) s = .next
      { afterWindow s (((a.setWidth 8 ||| 0x80).setWidth 32) <<< 16) levels with seq := seqAfterFrame s.seq }) ∧
  (∀ (a : Addr) (v : Value) (s : State), ∃ levels : List Level, levels.length = 24 ∧
    exec (.f24Write a v) s = .next
      { afterWindow s (((a.setWidth 32) <<< 16) ||| v.setWidth 32) levels with seq := seqAfterFrame s.seq })

/-! ## CHIP_RESET -/

/-- 44_reset_seq R170, R182 with n = m = 1: from its start, against a chip whose readback matches at the first poll of each
phase, CHIP_RESET completes, whatever the poll limit: the four transactions in order (write A, read, write B, read), RST
Done, RESULT 0, OUTCOME OK. -/
def Obligations.ChipResetCompletes : Prop :=
  ∀ s : State, inChipReset s.seq = false → pinDriven s.pins.miso = false → 96 ≤ s.answers.length →
    readback (answersOf s 24) = 0x0000 → readback (answersOf s 72) = 0x8000 →
    ∃ t : State, exec .chipReset s = .next t ∧ resetDone t ∧ t.answers = s.answers.drop 96 ∧
      t.trace = s.trace ++ disableWriteEvents s.params (answersOf s 0) ++ pollEvents s.params (answersOf s 24)
        ++ enableWriteEvents s.params (answersOf s 48) ++ pollEvents s.params (answersOf s 72) ∧
      t.trace.length = s.trace.length + 588

/-- 44_reset_seq R172, R173, R181: from its start, whatever RST held, against a readback that does not match, CHIP_RESET has
written sentinel A, polled once and stands in Disabling before its next poll, which the limit allows; sentinel B is not
written. That an execution ends there is the model's grain (log 1). -/
def Obligations.ChipResetStartsDisabling : Prop :=
  ∀ s : State, inChipReset s.seq = false → pinDriven s.pins.miso = false → 48 ≤ s.answers.length →
    readback (answersOf s 24) ≠ 0x0000 → mayPollAgain s.params 1 →
    ∃ t : State, exec .chipReset s = .next t ∧ standsPolling s t .disabling 1 ∧ t.answers = s.answers.drop 48 ∧
      t.trace = s.trace ++ disableWriteEvents s.params (answersOf s 0) ++ pollEvents s.params (answersOf s 24)

/-- 44_reset_seq R173, R175, R179: standing before a poll of either phase, a readback that does not match is followed by
another poll whenever the limit allows one: with no limit, and with a limit of L while fewer than L polls are made. -/
def Obligations.PollMissPollsAgain : Prop :=
  ∀ s : State, inChipReset s.seq = true → pinDriven s.pins.miso = false → 24 ≤ s.answers.length →
    mayPollAgain s.params (s.pollcnt + 1) →
    ((s.rst = .disabling ∧ readback (answersOf s 0) ≠ 0x0000) ∨
     (s.rst = .enabling ∧ readback (answersOf s 0) ≠ 0x8000)) →
    ∃ t : State, exec .chipReset s = .next t ∧ standsPolling s t s.rst (s.pollcnt + 1) ∧
      t.answers = s.answers.drop 24 ∧ t.trace = s.trace ++ pollEvents s.params (answersOf s 0)

/-- 44_reset_seq R175, R177: in Enabling a poll that matches `0x8000` ends CHIP_RESET, whatever the poll limit: RST Done,
RESULT 0, OUTCOME OK, BUSY 0, one poll transaction made. POLLCNT counts it (R170) and keeps its value (log 18). -/
def Obligations.EnablingPollMatchEnds : Prop :=
  ∀ s : State, inChipReset s.seq = true → s.rst = .enabling → pinDriven s.pins.miso = false → 24 ≤ s.answers.length →
    readback (answersOf s 0) = 0x8000 →
    ∃ t : State, exec .chipReset s = .next t ∧ resetDone t ∧ t.pollcnt = s.pollcnt + 1 ∧
      t.answers = s.answers.drop 24 ∧ t.trace = s.trace ++ pollEvents s.params (answersOf s 0)

/-- 44_reset_seq R173, R174, R175, R177: in Disabling a poll that matches `0x0000` is followed by the write of sentinel B and
the first poll of the enable phase. When that one does not match and the limit allows another, the sequencer stands in
Enabling; when it matches, CHIP_RESET ends in Done. The same from CHIP_RESET's start, after the write of sentinel A (for the
match in both phases see ChipResetCompletes; for a limit of one ImmediateTimeouts). -/
def Obligations.DisablingPollMatchGoesOn : Prop :=
  (∀ s : State, inChipReset s.seq = true → s.rst = .disabling → pinDriven s.pins.miso = false → 72 ≤ s.answers.length →
    readback (answersOf s 0) = 0x0000 → readback (answersOf s 48) ≠ 0x8000 → mayPollAgain s.params 1 →
    ∃ t : State, exec .chipReset s = .next t ∧ standsPolling s t .enabling 1 ∧ t.answers = s.answers.drop 72 ∧
      t.trace = s.trace ++ pollEvents s.params (answersOf s 0) ++ enableWriteEvents s.params (answersOf s 24)
        ++ pollEvents s.params (answersOf s 48)) ∧
  (∀ s : State, inChipReset s.seq = true → s.rst = .disabling → pinDriven s.pins.miso = false → 72 ≤ s.answers.length →
    readback (answersOf s 0) = 0x0000 → readback (answersOf s 48) = 0x8000 →
    ∃ t : State, exec .chipReset s = .next t ∧ resetDone t ∧ t.answers = s.answers.drop 72 ∧
      t.trace = s.trace ++ pollEvents s.params (answersOf s 0) ++ enableWriteEvents s.params (answersOf s 24)
        ++ pollEvents s.params (answersOf s 48)) ∧
  (∀ s : State, inChipReset s.seq = false → pinDriven s.pins.miso = false → 96 ≤ s.answers.length →
    readback (answersOf s 24) = 0x0000 → readback (answersOf s 72) ≠ 0x8000 → mayPollAgain s.params 1 →
    ∃ t : State, exec .chipReset s = .next t ∧ standsPolling s t .enabling 1 ∧ t.answers = s.answers.drop 96 ∧
      t.trace = s.trace ++ disableWriteEvents s.params (answersOf s 0) ++ pollEvents s.params (answersOf s 24)
        ++ enableWriteEvents s.params (answersOf s 48) ++ pollEvents s.params (answersOf s 72))

/-- 44_reset_seq R179, 60_exceptions R199 (decision D11): under `POLL_LIMIT = some L`, the L-th poll of a phase that does not
match ends the operation: RST Failed, OUTCOME TIMEOUT, RESULT the last readback and the phase, chip-select idle, clock and
MOSI low, POLLCNT = L. Here from where the sequencer stands before that poll. -/
def Obligations.PollLimitTimesOut : Prop :=
  ∀ (s : State) (l : Nat), inChipReset s.seq = true → s.params.pollLimit = some l → s.pollcnt + 1 = l →
    pinDriven s.pins.miso = false → 24 ≤ s.answers.length →
    ((s.rst = .disabling ∧ readback (answersOf s 0) ≠ 0x0000) ∨
     (s.rst = .enabling ∧ readback (answersOf s 0) ≠ 0x8000)) →
    ∃ t : State, exec .chipReset s = .next t ∧ resetTimedOut s t (s.rst == .enabling) l (answersOf s 0) ∧
      t.answers = s.answers.drop 24 ∧ t.trace = s.trace ++ pollEvents s.params (answersOf s 0)

/-- 44_reset_seq R179, 60_exceptions R199 (decision D11) with a limit of one: the timeout within the execution that begins
the phase. In the disable phase from CHIP_RESET's start, sentinel B never written; in the enable phase after a match in
Disabling, from where the sequencer stood and from CHIP_RESET's start. -/
def Obligations.ImmediateTimeouts : Prop :=
  (∀ s : State, inChipReset s.seq = false → s.params.pollLimit = some 1 → pinDriven s.pins.miso = false →
    48 ≤ s.answers.length → readback (answersOf s 24) ≠ 0x0000 →
    ∃ t : State, exec .chipReset s = .next t ∧ resetTimedOut s t false 1 (answersOf s 24) ∧
      t.answers = s.answers.drop 48 ∧
      t.trace = s.trace ++ disableWriteEvents s.params (answersOf s 0) ++ pollEvents s.params (answersOf s 24)) ∧
  (∀ s : State, inChipReset s.seq = true → s.rst = .disabling → s.params.pollLimit = some 1 →
    pinDriven s.pins.miso = false → 72 ≤ s.answers.length → readback (answersOf s 0) = 0x0000 →
    readback (answersOf s 48) ≠ 0x8000 →
    ∃ t : State, exec .chipReset s = .next t ∧ resetTimedOut s t true 1 (answersOf s 48) ∧
      t.answers = s.answers.drop 72 ∧
      t.trace = s.trace ++ pollEvents s.params (answersOf s 0) ++ enableWriteEvents s.params (answersOf s 24)
        ++ pollEvents s.params (answersOf s 48)) ∧
  (∀ s : State, inChipReset s.seq = false → s.params.pollLimit = some 1 → pinDriven s.pins.miso = false →
    96 ≤ s.answers.length → readback (answersOf s 24) = 0x0000 → readback (answersOf s 72) ≠ 0x8000 →
    ∃ t : State, exec .chipReset s = .next t ∧ resetTimedOut s t true 1 (answersOf s 72) ∧
      t.answers = s.answers.drop 96 ∧
      t.trace = s.trace ++ disableWriteEvents s.params (answersOf s 0) ++ pollEvents s.params (answersOf s 24)
        ++ enableWriteEvents s.params (answersOf s 48) ++ pollEvents s.params (answersOf s 72))

/-- The frame of CHIP_RESET (44_reset_seq R185(c), 70_reset R222): the rails, the indicator and analog-test pins and every
direction, function and pull mode are unchanged, and so are CMD and the parameters. -/
def Obligations.ChipResetFrame : Prop :=
  ∀ s t : State, exec .chipReset s = .next t →
    (∀ r : Role, r ≠ .csn → r ≠ .mosi → r ≠ .sclk → t.pins.ofRole r = s.pins.ofRole r) ∧
    (∀ r : Role, (t.pins.ofRole r).func = (s.pins.ofRole r).func ∧ (t.pins.ofRole r).dir = (s.pins.ofRole r).dir ∧
      (t.pins.ofRole r).pull = (s.pins.ofRole r).pull) ∧
    t.pins.extras = s.pins.extras ∧ t.cmd = s.cmd ∧ t.params = s.params ∧ t.host = s.host ∧
    t.pins.csn.out = s.params.idle .csn ∧ t.pins.sclk.out = false

/-- 44_reset_seq R178, 60_exceptions R194: with `POLL_LIMIT = none` and a chip whose readback never matches, for every number
of steps CHIP_RESET is still running: BUSY 1, RST as it was, nothing reported, and the trace grown by one 24-pulse read
transaction after another, one for every step. One poll a step is the model's grain (log 1). -/
def Obligations.HangIsAnInfiniteRun : Prop :=
  ∀ (n : Nat) (s : State), inChipReset s.seq = true → s.Inv → s.dly = 0 → s.params.pollLimit = none →
    pinDriven s.pins.miso = false → 24 * n ≤ s.answers.length →
    ((s.rst = .disabling ∧ ∀ k < n, readback (answersOf s (24 * k)) ≠ 0x0000) ∨
     (s.rst = .enabling ∧ ∀ k < n, readback (answersOf s (24 * k)) ≠ 0x8000)) →
    ∃ t : State, core.run n s = .next t ∧ t.rst = s.rst ∧ t.busy = true ∧ inChipReset t.seq = true ∧
      t.outcome = s.outcome ∧ t.result = s.result ∧
      t.trace = s.trace ++ (List.range n).flatMap fun k => pollEvents s.params (answersOf s (24 * k))

/-- 44_reset_seq R171: one step of the sequencer leaves RST, or moves it one place along the chain Idle, Disabling,
ConfirmedDisabled, Enabling, ConfirmedEnabled, Done, or from a poll phase to Failed (R179). Which step makes each move, and
that `RST <- Done` has a step of its own, is the model's choice (log 25). -/
def Obligations.RstMovesAlongChain : Prop :=
  ∀ s : State, s.tick.rst = s.rst ∨
    (s.rst, s.tick.rst) ∈ [(Rst.idle, Rst.disabling), (.disabling, .confirmedDisabled), (.confirmedDisabled, .enabling),
      (.enabling, .confirmedEnabled), (.confirmedEnabled, .done), (.disabling, .failed), (.enabling, .failed)]

/-- 30_encoding R103: the compare of CHIP_RESET is equality of all 16 bits; a readback that differs in any bit is no match. -/
def Obligations.SentinelCompareIsWhole : Prop :=
  ∀ v sentinel : Value, readbackMatches v sentinel = true ↔ ∀ i < 16, v.getLsbD i = sentinel.getLsbD i

/-! ## The sequencer -/

/-- 10_state R45, 42_transport R144: an operation run as a whole is the same operation run one primitive at a time: from its
first position the sequencer's steps lead to the state `exec` answers (it justifies the grain of log 1). -/
def Obligations.TicksReachExec : Prop :=
  ∀ (i : Instr) (s t : State), s.seq = .idle → s.dly = 0 → exec i s = .next t → ∃ n : Nat, (s.begin i).ticks n = t

/-- 10_state R26, R45; 42_transport R144: a delay, from any state before its first step: SEQ holds the delay's position for
all its T ticks while DLY counts down from T, nothing else changes but the event D(T), and then SEQ is at the next position.
That loading DLY is a step of its own and that SEQ moves on with the last tick is the model's choice (log 21). -/
def Obligations.DelayHoldsPosition : Prop :=
  ∀ (s : State) (t : Nat), s.dly = 0 → delayAt s.params s.seq = some t →
    (∀ k < t, core.run (k + 1) s = .next { s with dly := t - k, trace := s.trace ++ [.d t] }) ∧
    core.run (t + 1) s = .next { s with dly := 0, seq := afterDelay s.seq, trace := s.trace ++ [.d t] }
end

