-- ==== Sys2Proof/Laws/State.lean ====
section
/-! SUPPORT. What each state update does to each field: one lemma a field, all true by unfolding. -/

namespace Sys2Proof.Machine

@[simp] theorem State.log_params (e : Event) (s : State) : (s.log e).params = s.params := rfl
@[simp] theorem State.log_acc (e : Event) (s : State) : (s.log e).acc = s.acc := rfl
@[simp] theorem State.log_bitidx (e : Event) (s : State) : (s.log e).bitidx = s.bitidx := rfl
@[simp] theorem State.log_seq (e : Event) (s : State) : (s.log e).seq = s.seq := rfl
@[simp] theorem State.log_rst (e : Event) (s : State) : (s.log e).rst = s.rst := rfl
@[simp] theorem State.log_pollcnt (e : Event) (s : State) : (s.log e).pollcnt = s.pollcnt := rfl
@[simp] theorem State.log_dly (e : Event) (s : State) : (s.log e).dly = s.dly := rfl
@[simp] theorem State.log_cmd (e : Event) (s : State) : (s.log e).cmd = s.cmd := rfl
@[simp] theorem State.log_result (e : Event) (s : State) : (s.log e).result = s.result := rfl
@[simp] theorem State.log_busy (e : Event) (s : State) : (s.log e).busy = s.busy := rfl
@[simp] theorem State.log_outcome (e : Event) (s : State) : (s.log e).outcome = s.outcome := rfl
@[simp] theorem State.log_pins (e : Event) (s : State) : (s.log e).pins = s.pins := rfl
@[simp] theorem State.log_trace (e : Event) (s : State) : (s.log e).trace = s.trace ++ [e] := rfl
@[simp] theorem State.log_host (e : Event) (s : State) : (s.log e).host = s.host := rfl
@[simp] theorem State.log_past (e : Event) (s : State) : (s.log e).past = s.past := rfl
@[simp] theorem State.log_answers (e : Event) (s : State) : (s.log e).answers = s.answers := rfl

@[simp] theorem State.drive_params (r : Role) (l : Level) (s : State) : (s.drive r l).params = s.params := rfl
@[simp] theorem State.drive_acc (r : Role) (l : Level) (s : State) : (s.drive r l).acc = s.acc := rfl
@[simp] theorem State.drive_bitidx (r : Role) (l : Level) (s : State) : (s.drive r l).bitidx = s.bitidx := rfl
@[simp] theorem State.drive_seq (r : Role) (l : Level) (s : State) : (s.drive r l).seq = s.seq := rfl
@[simp] theorem State.drive_rst (r : Role) (l : Level) (s : State) : (s.drive r l).rst = s.rst := rfl
@[simp] theorem State.drive_pollcnt (r : Role) (l : Level) (s : State) : (s.drive r l).pollcnt = s.pollcnt := rfl
@[simp] theorem State.drive_dly (r : Role) (l : Level) (s : State) : (s.drive r l).dly = s.dly := rfl
@[simp] theorem State.drive_cmd (r : Role) (l : Level) (s : State) : (s.drive r l).cmd = s.cmd := rfl
@[simp] theorem State.drive_result (r : Role) (l : Level) (s : State) : (s.drive r l).result = s.result := rfl
@[simp] theorem State.drive_busy (r : Role) (l : Level) (s : State) : (s.drive r l).busy = s.busy := rfl
@[simp] theorem State.drive_outcome (r : Role) (l : Level) (s : State) : (s.drive r l).outcome = s.outcome := rfl
@[simp] theorem State.drive_pins (r : Role) (l : Level) (s : State) : (s.drive r l).pins = s.pins.setOut r l := rfl
@[simp] theorem State.drive_trace (r : Role) (l : Level) (s : State) : (s.drive r l).trace = s.trace ++ [.w r l] := rfl
@[simp] theorem State.drive_host (r : Role) (l : Level) (s : State) : (s.drive r l).host = s.host := rfl
@[simp] theorem State.drive_past (r : Role) (l : Level) (s : State) : (s.drive r l).past = s.past := rfl
@[simp] theorem State.drive_answers (r : Role) (l : Level) (s : State) : (s.drive r l).answers = s.answers := rfl

@[simp] theorem State.assertPin_params (r : Role) (s : State) : (s.assertPin r).params = s.params := rfl
@[simp] theorem State.assertPin_acc (r : Role) (s : State) : (s.assertPin r).acc = s.acc := rfl
@[simp] theorem State.assertPin_bitidx (r : Role) (s : State) : (s.assertPin r).bitidx = s.bitidx := rfl
@[simp] theorem State.assertPin_seq (r : Role) (s : State) : (s.assertPin r).seq = s.seq := rfl
@[simp] theorem State.assertPin_rst (r : Role) (s : State) : (s.assertPin r).rst = s.rst := rfl
@[simp] theorem State.assertPin_pollcnt (r : Role) (s : State) : (s.assertPin r).pollcnt = s.pollcnt := rfl
@[simp] theorem State.assertPin_dly (r : Role) (s : State) : (s.assertPin r).dly = s.dly := rfl
@[simp] theorem State.assertPin_cmd (r : Role) (s : State) : (s.assertPin r).cmd = s.cmd := rfl
@[simp] theorem State.assertPin_result (r : Role) (s : State) : (s.assertPin r).result = s.result := rfl
@[simp] theorem State.assertPin_busy (r : Role) (s : State) : (s.assertPin r).busy = s.busy := rfl
@[simp] theorem State.assertPin_outcome (r : Role) (s : State) : (s.assertPin r).outcome = s.outcome := rfl
@[simp] theorem State.assertPin_pins (r : Role) (s : State) : (s.assertPin r).pins = s.pins.setOut r (s.params.active r) := rfl
@[simp] theorem State.assertPin_trace (r : Role) (s : State) : (s.assertPin r).trace = s.trace ++ [.w r (s.params.active r)] := rfl
@[simp] theorem State.assertPin_host (r : Role) (s : State) : (s.assertPin r).host = s.host := rfl
@[simp] theorem State.assertPin_past (r : Role) (s : State) : (s.assertPin r).past = s.past := rfl
@[simp] theorem State.assertPin_answers (r : Role) (s : State) : (s.assertPin r).answers = s.answers := rfl

@[simp] theorem State.deassertPin_params (r : Role) (s : State) : (s.deassertPin r).params = s.params := rfl
@[simp] theorem State.deassertPin_acc (r : Role) (s : State) : (s.deassertPin r).acc = s.acc := rfl
@[simp] theorem State.deassertPin_bitidx (r : Role) (s : State) : (s.deassertPin r).bitidx = s.bitidx := rfl
@[simp] theorem State.deassertPin_seq (r : Role) (s : State) : (s.deassertPin r).seq = s.seq := rfl
@[simp] theorem State.deassertPin_rst (r : Role) (s : State) : (s.deassertPin r).rst = s.rst := rfl
@[simp] theorem State.deassertPin_pollcnt (r : Role) (s : State) : (s.deassertPin r).pollcnt = s.pollcnt := rfl
@[simp] theorem State.deassertPin_dly (r : Role) (s : State) : (s.deassertPin r).dly = s.dly := rfl
@[simp] theorem State.deassertPin_cmd (r : Role) (s : State) : (s.deassertPin r).cmd = s.cmd := rfl
@[simp] theorem State.deassertPin_result (r : Role) (s : State) : (s.deassertPin r).result = s.result := rfl
@[simp] theorem State.deassertPin_busy (r : Role) (s : State) : (s.deassertPin r).busy = s.busy := rfl
@[simp] theorem State.deassertPin_outcome (r : Role) (s : State) : (s.deassertPin r).outcome = s.outcome := rfl
@[simp] theorem State.deassertPin_pins (r : Role) (s : State) : (s.deassertPin r).pins = s.pins.setOut r (s.params.idle r) := rfl
@[simp] theorem State.deassertPin_trace (r : Role) (s : State) : (s.deassertPin r).trace = s.trace ++ [.w r (s.params.idle r)] := rfl
@[simp] theorem State.deassertPin_host (r : Role) (s : State) : (s.deassertPin r).host = s.host := rfl
@[simp] theorem State.deassertPin_past (r : Role) (s : State) : (s.deassertPin r).past = s.past := rfl
@[simp] theorem State.deassertPin_answers (r : Role) (s : State) : (s.deassertPin r).answers = s.answers := rfl

@[simp] theorem State.setFunc_params (r : Role) (v : Nat) (s : State) : (s.setFunc r v).params = s.params := rfl
@[simp] theorem State.setFunc_acc (r : Role) (v : Nat) (s : State) : (s.setFunc r v).acc = s.acc := rfl
@[simp] theorem State.setFunc_bitidx (r : Role) (v : Nat) (s : State) : (s.setFunc r v).bitidx = s.bitidx := rfl
@[simp] theorem State.setFunc_seq (r : Role) (v : Nat) (s : State) : (s.setFunc r v).seq = s.seq := rfl
@[simp] theorem State.setFunc_rst (r : Role) (v : Nat) (s : State) : (s.setFunc r v).rst = s.rst := rfl
@[simp] theorem State.setFunc_pollcnt (r : Role) (v : Nat) (s : State) : (s.setFunc r v).pollcnt = s.pollcnt := rfl
@[simp] theorem State.setFunc_dly (r : Role) (v : Nat) (s : State) : (s.setFunc r v).dly = s.dly := rfl
@[simp] theorem State.setFunc_cmd (r : Role) (v : Nat) (s : State) : (s.setFunc r v).cmd = s.cmd := rfl
@[simp] theorem State.setFunc_result (r : Role) (v : Nat) (s : State) : (s.setFunc r v).result = s.result := rfl
@[simp] theorem State.setFunc_busy (r : Role) (v : Nat) (s : State) : (s.setFunc r v).busy = s.busy := rfl
@[simp] theorem State.setFunc_outcome (r : Role) (v : Nat) (s : State) : (s.setFunc r v).outcome = s.outcome := rfl
@[simp] theorem State.setFunc_pins (r : Role) (v : Nat) (s : State) : (s.setFunc r v).pins = s.pins.setFunc r v := rfl
@[simp] theorem State.setFunc_trace (r : Role) (v : Nat) (s : State) : (s.setFunc r v).trace = s.trace ++ [.f (.role r) v] := rfl
@[simp] theorem State.setFunc_host (r : Role) (v : Nat) (s : State) : (s.setFunc r v).host = s.host := rfl
@[simp] theorem State.setFunc_past (r : Role) (v : Nat) (s : State) : (s.setFunc r v).past = s.past := rfl
@[simp] theorem State.setFunc_answers (r : Role) (v : Nat) (s : State) : (s.setFunc r v).answers = s.answers := rfl

@[simp] theorem State.setDir_params (r : Role) (d : Dir) (s : State) : (s.setDir r d).params = s.params := rfl
@[simp] theorem State.setDir_acc (r : Role) (d : Dir) (s : State) : (s.setDir r d).acc = s.acc := rfl
@[simp] theorem State.setDir_bitidx (r : Role) (d : Dir) (s : State) : (s.setDir r d).bitidx = s.bitidx := rfl
@[simp] theorem State.setDir_seq (r : Role) (d : Dir) (s : State) : (s.setDir r d).seq = s.seq := rfl
@[simp] theorem State.setDir_rst (r : Role) (d : Dir) (s : State) : (s.setDir r d).rst = s.rst := rfl
@[simp] theorem State.setDir_pollcnt (r : Role) (d : Dir) (s : State) : (s.setDir r d).pollcnt = s.pollcnt := rfl
@[simp] theorem State.setDir_dly (r : Role) (d : Dir) (s : State) : (s.setDir r d).dly = s.dly := rfl
@[simp] theorem State.setDir_cmd (r : Role) (d : Dir) (s : State) : (s.setDir r d).cmd = s.cmd := rfl
@[simp] theorem State.setDir_result (r : Role) (d : Dir) (s : State) : (s.setDir r d).result = s.result := rfl
@[simp] theorem State.setDir_busy (r : Role) (d : Dir) (s : State) : (s.setDir r d).busy = s.busy := rfl
@[simp] theorem State.setDir_outcome (r : Role) (d : Dir) (s : State) : (s.setDir r d).outcome = s.outcome := rfl
@[simp] theorem State.setDir_pins (r : Role) (d : Dir) (s : State) : (s.setDir r d).pins = s.pins.setDir r d := rfl
@[simp] theorem State.setDir_trace (r : Role) (d : Dir) (s : State) : (s.setDir r d).trace = s.trace ++ [.dirw (.role r) d] := rfl
@[simp] theorem State.setDir_host (r : Role) (d : Dir) (s : State) : (s.setDir r d).host = s.host := rfl
@[simp] theorem State.setDir_past (r : Role) (d : Dir) (s : State) : (s.setDir r d).past = s.past := rfl
@[simp] theorem State.setDir_answers (r : Role) (d : Dir) (s : State) : (s.setDir r d).answers = s.answers := rfl

@[simp] theorem State.setPull_params (r : Role) (m : Pull) (s : State) : (s.setPull r m).params = s.params := rfl
@[simp] theorem State.setPull_acc (r : Role) (m : Pull) (s : State) : (s.setPull r m).acc = s.acc := rfl
@[simp] theorem State.setPull_bitidx (r : Role) (m : Pull) (s : State) : (s.setPull r m).bitidx = s.bitidx := rfl
@[simp] theorem State.setPull_seq (r : Role) (m : Pull) (s : State) : (s.setPull r m).seq = s.seq := rfl
@[simp] theorem State.setPull_rst (r : Role) (m : Pull) (s : State) : (s.setPull r m).rst = s.rst := rfl
@[simp] theorem State.setPull_pollcnt (r : Role) (m : Pull) (s : State) : (s.setPull r m).pollcnt = s.pollcnt := rfl
@[simp] theorem State.setPull_dly (r : Role) (m : Pull) (s : State) : (s.setPull r m).dly = s.dly := rfl
@[simp] theorem State.setPull_cmd (r : Role) (m : Pull) (s : State) : (s.setPull r m).cmd = s.cmd := rfl
@[simp] theorem State.setPull_result (r : Role) (m : Pull) (s : State) : (s.setPull r m).result = s.result := rfl
@[simp] theorem State.setPull_busy (r : Role) (m : Pull) (s : State) : (s.setPull r m).busy = s.busy := rfl
@[simp] theorem State.setPull_outcome (r : Role) (m : Pull) (s : State) : (s.setPull r m).outcome = s.outcome := rfl
@[simp] theorem State.setPull_pins (r : Role) (m : Pull) (s : State) : (s.setPull r m).pins = s.pins.setPull r m := rfl
@[simp] theorem State.setPull_trace (r : Role) (m : Pull) (s : State) : (s.setPull r m).trace = s.trace ++ [.p (.role r) m] := rfl
@[simp] theorem State.setPull_host (r : Role) (m : Pull) (s : State) : (s.setPull r m).host = s.host := rfl
@[simp] theorem State.setPull_past (r : Role) (m : Pull) (s : State) : (s.setPull r m).past = s.past := rfl
@[simp] theorem State.setPull_answers (r : Role) (m : Pull) (s : State) : (s.setPull r m).answers = s.answers := rfl

@[simp] theorem State.startDelay_params (t : Nat) (s : State) : (s.startDelay t).params = s.params := rfl
@[simp] theorem State.startDelay_acc (t : Nat) (s : State) : (s.startDelay t).acc = s.acc := rfl
@[simp] theorem State.startDelay_bitidx (t : Nat) (s : State) : (s.startDelay t).bitidx = s.bitidx := rfl
@[simp] theorem State.startDelay_seq (t : Nat) (s : State) : (s.startDelay t).seq = s.seq := rfl
@[simp] theorem State.startDelay_rst (t : Nat) (s : State) : (s.startDelay t).rst = s.rst := rfl
@[simp] theorem State.startDelay_pollcnt (t : Nat) (s : State) : (s.startDelay t).pollcnt = s.pollcnt := rfl
@[simp] theorem State.startDelay_dly (t : Nat) (s : State) : (s.startDelay t).dly = t := rfl
@[simp] theorem State.startDelay_cmd (t : Nat) (s : State) : (s.startDelay t).cmd = s.cmd := rfl
@[simp] theorem State.startDelay_result (t : Nat) (s : State) : (s.startDelay t).result = s.result := rfl
@[simp] theorem State.startDelay_busy (t : Nat) (s : State) : (s.startDelay t).busy = s.busy := rfl
@[simp] theorem State.startDelay_outcome (t : Nat) (s : State) : (s.startDelay t).outcome = s.outcome := rfl
@[simp] theorem State.startDelay_pins (t : Nat) (s : State) : (s.startDelay t).pins = s.pins := rfl
@[simp] theorem State.startDelay_trace (t : Nat) (s : State) : (s.startDelay t).trace = s.trace ++ [.d t] := rfl
@[simp] theorem State.startDelay_host (t : Nat) (s : State) : (s.startDelay t).host = s.host := rfl
@[simp] theorem State.startDelay_past (t : Nat) (s : State) : (s.startDelay t).past = s.past := rfl
@[simp] theorem State.startDelay_answers (t : Nat) (s : State) : (s.startDelay t).answers = s.answers := rfl

@[simp] theorem State.endDelay_params (s : State) : (s.endDelay).params = s.params := rfl
@[simp] theorem State.endDelay_acc (s : State) : (s.endDelay).acc = s.acc := rfl
@[simp] theorem State.endDelay_bitidx (s : State) : (s.endDelay).bitidx = s.bitidx := rfl
@[simp] theorem State.endDelay_seq (s : State) : (s.endDelay).seq = s.seq := rfl
@[simp] theorem State.endDelay_rst (s : State) : (s.endDelay).rst = s.rst := rfl
@[simp] theorem State.endDelay_pollcnt (s : State) : (s.endDelay).pollcnt = s.pollcnt := rfl
@[simp] theorem State.endDelay_dly (s : State) : (s.endDelay).dly = 0 := rfl
@[simp] theorem State.endDelay_cmd (s : State) : (s.endDelay).cmd = s.cmd := rfl
@[simp] theorem State.endDelay_result (s : State) : (s.endDelay).result = s.result := rfl
@[simp] theorem State.endDelay_busy (s : State) : (s.endDelay).busy = s.busy := rfl
@[simp] theorem State.endDelay_outcome (s : State) : (s.endDelay).outcome = s.outcome := rfl
@[simp] theorem State.endDelay_pins (s : State) : (s.endDelay).pins = s.pins := rfl
@[simp] theorem State.endDelay_trace (s : State) : (s.endDelay).trace = s.trace := rfl
@[simp] theorem State.endDelay_host (s : State) : (s.endDelay).host = s.host := rfl
@[simp] theorem State.endDelay_past (s : State) : (s.endDelay).past = s.past := rfl
@[simp] theorem State.endDelay_answers (s : State) : (s.endDelay).answers = s.answers := rfl

@[simp] theorem State.delay_params (t : Nat) (s : State) : (s.delay t).params = s.params := rfl
@[simp] theorem State.delay_acc (t : Nat) (s : State) : (s.delay t).acc = s.acc := rfl
@[simp] theorem State.delay_bitidx (t : Nat) (s : State) : (s.delay t).bitidx = s.bitidx := rfl
@[simp] theorem State.delay_seq (t : Nat) (s : State) : (s.delay t).seq = s.seq := rfl
@[simp] theorem State.delay_rst (t : Nat) (s : State) : (s.delay t).rst = s.rst := rfl
@[simp] theorem State.delay_pollcnt (t : Nat) (s : State) : (s.delay t).pollcnt = s.pollcnt := rfl
@[simp] theorem State.delay_dly (t : Nat) (s : State) : (s.delay t).dly = 0 := rfl
@[simp] theorem State.delay_cmd (t : Nat) (s : State) : (s.delay t).cmd = s.cmd := rfl
@[simp] theorem State.delay_result (t : Nat) (s : State) : (s.delay t).result = s.result := rfl
@[simp] theorem State.delay_busy (t : Nat) (s : State) : (s.delay t).busy = s.busy := rfl
@[simp] theorem State.delay_outcome (t : Nat) (s : State) : (s.delay t).outcome = s.outcome := rfl
@[simp] theorem State.delay_pins (t : Nat) (s : State) : (s.delay t).pins = s.pins := rfl
@[simp] theorem State.delay_trace (t : Nat) (s : State) : (s.delay t).trace = s.trace ++ [.d t] := rfl
@[simp] theorem State.delay_host (t : Nat) (s : State) : (s.delay t).host = s.host := rfl
@[simp] theorem State.delay_past (t : Nat) (s : State) : (s.delay t).past = s.past := rfl
@[simp] theorem State.delay_answers (t : Nat) (s : State) : (s.delay t).answers = s.answers := rfl

@[simp] theorem State.sampleInto_params (n : Nat) (s : State) : (s.sampleInto n).params = s.params := rfl
@[simp] theorem State.sampleInto_acc (n : Nat) (s : State) : (s.sampleInto n).acc = setBit s.acc n (s.line (.role .miso)) := rfl
@[simp] theorem State.sampleInto_bitidx (n : Nat) (s : State) : (s.sampleInto n).bitidx = s.bitidx := rfl
@[simp] theorem State.sampleInto_seq (n : Nat) (s : State) : (s.sampleInto n).seq = s.seq := rfl
@[simp] theorem State.sampleInto_rst (n : Nat) (s : State) : (s.sampleInto n).rst = s.rst := rfl
@[simp] theorem State.sampleInto_pollcnt (n : Nat) (s : State) : (s.sampleInto n).pollcnt = s.pollcnt := rfl
@[simp] theorem State.sampleInto_dly (n : Nat) (s : State) : (s.sampleInto n).dly = s.dly := rfl
@[simp] theorem State.sampleInto_cmd (n : Nat) (s : State) : (s.sampleInto n).cmd = s.cmd := rfl
@[simp] theorem State.sampleInto_result (n : Nat) (s : State) : (s.sampleInto n).result = s.result := rfl
@[simp] theorem State.sampleInto_busy (n : Nat) (s : State) : (s.sampleInto n).busy = s.busy := rfl
@[simp] theorem State.sampleInto_outcome (n : Nat) (s : State) : (s.sampleInto n).outcome = s.outcome := rfl
@[simp] theorem State.sampleInto_pins (n : Nat) (s : State) : (s.sampleInto n).pins = s.pins := rfl
@[simp] theorem State.sampleInto_trace (n : Nat) (s : State) : (s.sampleInto n).trace = s.trace ++ [.s .miso (s.line (.role .miso))] := rfl
@[simp] theorem State.sampleInto_host (n : Nat) (s : State) : (s.sampleInto n).host = s.host := rfl
@[simp] theorem State.sampleInto_past (n : Nat) (s : State) : (s.sampleInto n).past = s.past := rfl
@[simp] theorem State.sampleInto_answers (n : Nat) (s : State) : (s.sampleInto n).answers = s.answersAfterSample := rfl

@[simp] theorem State.finish_params (o : OutcomeCode) (r : Word) (s : State) : (s.finish o r).params = s.params := rfl
@[simp] theorem State.finish_acc (o : OutcomeCode) (r : Word) (s : State) : (s.finish o r).acc = s.acc := rfl
@[simp] theorem State.finish_bitidx (o : OutcomeCode) (r : Word) (s : State) : (s.finish o r).bitidx = s.bitidx := rfl
@[simp] theorem State.finish_seq (o : OutcomeCode) (r : Word) (s : State) : (s.finish o r).seq = .idle := rfl
@[simp] theorem State.finish_rst (o : OutcomeCode) (r : Word) (s : State) : (s.finish o r).rst = s.rst := rfl
@[simp] theorem State.finish_pollcnt (o : OutcomeCode) (r : Word) (s : State) : (s.finish o r).pollcnt = s.pollcnt := rfl
@[simp] theorem State.finish_dly (o : OutcomeCode) (r : Word) (s : State) : (s.finish o r).dly = s.dly := rfl
@[simp] theorem State.finish_cmd (o : OutcomeCode) (r : Word) (s : State) : (s.finish o r).cmd = s.cmd := rfl
@[simp] theorem State.finish_result (o : OutcomeCode) (r : Word) (s : State) : (s.finish o r).result = r := rfl
@[simp] theorem State.finish_busy (o : OutcomeCode) (r : Word) (s : State) : (s.finish o r).busy = false := rfl
@[simp] theorem State.finish_outcome (o : OutcomeCode) (r : Word) (s : State) : (s.finish o r).outcome = o := rfl
@[simp] theorem State.finish_pins (o : OutcomeCode) (r : Word) (s : State) : (s.finish o r).pins = s.pins := rfl
@[simp] theorem State.finish_trace (o : OutcomeCode) (r : Word) (s : State) : (s.finish o r).trace = s.trace := rfl
@[simp] theorem State.finish_host (o : OutcomeCode) (r : Word) (s : State) : (s.finish o r).host = s.host := rfl
@[simp] theorem State.finish_past (o : OutcomeCode) (r : Word) (s : State) : (s.finish o r).past = s.past := rfl
@[simp] theorem State.finish_answers (o : OutcomeCode) (r : Word) (s : State) : (s.finish o r).answers = s.answers := rfl

@[simp] theorem State.accept_params (w : CmdWord) (s : State) : (s.accept w).params = s.params := rfl
@[simp] theorem State.accept_acc (w : CmdWord) (s : State) : (s.accept w).acc = s.acc := rfl
@[simp] theorem State.accept_bitidx (w : CmdWord) (s : State) : (s.accept w).bitidx = s.bitidx := rfl
@[simp] theorem State.accept_seq (w : CmdWord) (s : State) : (s.accept w).seq = s.seq := rfl
@[simp] theorem State.accept_rst (w : CmdWord) (s : State) : (s.accept w).rst = s.rst := rfl
@[simp] theorem State.accept_pollcnt (w : CmdWord) (s : State) : (s.accept w).pollcnt = s.pollcnt := rfl
@[simp] theorem State.accept_dly (w : CmdWord) (s : State) : (s.accept w).dly = s.dly := rfl
@[simp] theorem State.accept_cmd (w : CmdWord) (s : State) : (s.accept w).cmd = w := rfl
@[simp] theorem State.accept_result (w : CmdWord) (s : State) : (s.accept w).result = s.result := rfl
@[simp] theorem State.accept_busy (w : CmdWord) (s : State) : (s.accept w).busy = true := rfl
@[simp] theorem State.accept_outcome (w : CmdWord) (s : State) : (s.accept w).outcome = s.outcome := rfl
@[simp] theorem State.accept_pins (w : CmdWord) (s : State) : (s.accept w).pins = s.pins := rfl
@[simp] theorem State.accept_trace (w : CmdWord) (s : State) : (s.accept w).trace = s.trace := rfl
@[simp] theorem State.accept_host (w : CmdWord) (s : State) : (s.accept w).host = s.host := rfl
@[simp] theorem State.accept_past (w : CmdWord) (s : State) : (s.accept w).past = s.past := rfl
@[simp] theorem State.accept_answers (w : CmdWord) (s : State) : (s.accept w).answers = s.answers := rfl

@[simp] theorem State.logAnyOrder_params (es : List Event) (s : State) : (s.logAnyOrder es).params = s.params := rfl
@[simp] theorem State.logAnyOrder_acc (es : List Event) (s : State) : (s.logAnyOrder es).acc = s.acc := rfl
@[simp] theorem State.logAnyOrder_bitidx (es : List Event) (s : State) : (s.logAnyOrder es).bitidx = s.bitidx := rfl
@[simp] theorem State.logAnyOrder_seq (es : List Event) (s : State) : (s.logAnyOrder es).seq = s.seq := rfl
@[simp] theorem State.logAnyOrder_rst (es : List Event) (s : State) : (s.logAnyOrder es).rst = s.rst := rfl
@[simp] theorem State.logAnyOrder_pollcnt (es : List Event) (s : State) : (s.logAnyOrder es).pollcnt = s.pollcnt := rfl
@[simp] theorem State.logAnyOrder_dly (es : List Event) (s : State) : (s.logAnyOrder es).dly = s.dly := rfl
@[simp] theorem State.logAnyOrder_cmd (es : List Event) (s : State) : (s.logAnyOrder es).cmd = s.cmd := rfl
@[simp] theorem State.logAnyOrder_result (es : List Event) (s : State) : (s.logAnyOrder es).result = s.result := rfl
@[simp] theorem State.logAnyOrder_busy (es : List Event) (s : State) : (s.logAnyOrder es).busy = s.busy := rfl
@[simp] theorem State.logAnyOrder_outcome (es : List Event) (s : State) : (s.logAnyOrder es).outcome = s.outcome := rfl
@[simp] theorem State.logAnyOrder_pins (es : List Event) (s : State) : (s.logAnyOrder es).pins = s.pins := rfl
@[simp] theorem State.logAnyOrder_trace (es : List Event) (s : State) : (s.logAnyOrder es).trace = s.trace ++ arrange (Config.storeOrder s.history) es := rfl
@[simp] theorem State.logAnyOrder_host (es : List Event) (s : State) : (s.logAnyOrder es).host = s.host := rfl
@[simp] theorem State.logAnyOrder_past (es : List Event) (s : State) : (s.logAnyOrder es).past = s.past := rfl
@[simp] theorem State.logAnyOrder_answers (es : List Event) (s : State) : (s.logAnyOrder es).answers = s.answers := rfl

@[simp] theorem State.loadAcc_params (len : Nat) (out : Word) (s : State) : (s.loadAcc len out).params = s.params := rfl
@[simp] theorem State.loadAcc_acc (len : Nat) (out : Word) (s : State) : (s.loadAcc len out).acc = out := rfl
@[simp] theorem State.loadAcc_bitidx (len : Nat) (out : Word) (s : State) : (s.loadAcc len out).bitidx = BitVec.ofNat 6 (len - 1) := rfl
@[simp] theorem State.loadAcc_seq (len : Nat) (out : Word) (s : State) : (s.loadAcc len out).seq = s.seq := rfl
@[simp] theorem State.loadAcc_rst (len : Nat) (out : Word) (s : State) : (s.loadAcc len out).rst = s.rst := rfl
@[simp] theorem State.loadAcc_pollcnt (len : Nat) (out : Word) (s : State) : (s.loadAcc len out).pollcnt = s.pollcnt := rfl
@[simp] theorem State.loadAcc_dly (len : Nat) (out : Word) (s : State) : (s.loadAcc len out).dly = s.dly := rfl
@[simp] theorem State.loadAcc_cmd (len : Nat) (out : Word) (s : State) : (s.loadAcc len out).cmd = s.cmd := rfl
@[simp] theorem State.loadAcc_result (len : Nat) (out : Word) (s : State) : (s.loadAcc len out).result = s.result := rfl
@[simp] theorem State.loadAcc_busy (len : Nat) (out : Word) (s : State) : (s.loadAcc len out).busy = s.busy := rfl
@[simp] theorem State.loadAcc_outcome (len : Nat) (out : Word) (s : State) : (s.loadAcc len out).outcome = s.outcome := rfl
@[simp] theorem State.loadAcc_pins (len : Nat) (out : Word) (s : State) : (s.loadAcc len out).pins = s.pins := rfl
@[simp] theorem State.loadAcc_trace (len : Nat) (out : Word) (s : State) : (s.loadAcc len out).trace = s.trace := rfl
@[simp] theorem State.loadAcc_host (len : Nat) (out : Word) (s : State) : (s.loadAcc len out).host = s.host := rfl
@[simp] theorem State.loadAcc_past (len : Nat) (out : Word) (s : State) : (s.loadAcc len out).past = s.past := rfl
@[simp] theorem State.loadAcc_answers (len : Nat) (out : Word) (s : State) : (s.loadAcc len out).answers = s.answers := rfl

@[simp] theorem State.setIndex_params (n : Nat) (s : State) : (s.setIndex n).params = s.params := rfl
@[simp] theorem State.setIndex_acc (n : Nat) (s : State) : (s.setIndex n).acc = s.acc := rfl
@[simp] theorem State.setIndex_bitidx (n : Nat) (s : State) : (s.setIndex n).bitidx = BitVec.ofNat 6 n := rfl
@[simp] theorem State.setIndex_seq (n : Nat) (s : State) : (s.setIndex n).seq = s.seq := rfl
@[simp] theorem State.setIndex_rst (n : Nat) (s : State) : (s.setIndex n).rst = s.rst := rfl
@[simp] theorem State.setIndex_pollcnt (n : Nat) (s : State) : (s.setIndex n).pollcnt = s.pollcnt := rfl
@[simp] theorem State.setIndex_dly (n : Nat) (s : State) : (s.setIndex n).dly = s.dly := rfl
@[simp] theorem State.setIndex_cmd (n : Nat) (s : State) : (s.setIndex n).cmd = s.cmd := rfl
@[simp] theorem State.setIndex_result (n : Nat) (s : State) : (s.setIndex n).result = s.result := rfl
@[simp] theorem State.setIndex_busy (n : Nat) (s : State) : (s.setIndex n).busy = s.busy := rfl
@[simp] theorem State.setIndex_outcome (n : Nat) (s : State) : (s.setIndex n).outcome = s.outcome := rfl
@[simp] theorem State.setIndex_pins (n : Nat) (s : State) : (s.setIndex n).pins = s.pins := rfl
@[simp] theorem State.setIndex_trace (n : Nat) (s : State) : (s.setIndex n).trace = s.trace := rfl
@[simp] theorem State.setIndex_host (n : Nat) (s : State) : (s.setIndex n).host = s.host := rfl
@[simp] theorem State.setIndex_past (n : Nat) (s : State) : (s.setIndex n).past = s.past := rfl
@[simp] theorem State.setIndex_answers (n : Nat) (s : State) : (s.setIndex n).answers = s.answers := rfl

@[simp] theorem State.goTo_params (q : Seq) (s : State) : (s.goTo q).params = s.params := rfl
@[simp] theorem State.goTo_acc (q : Seq) (s : State) : (s.goTo q).acc = s.acc := rfl
@[simp] theorem State.goTo_bitidx (q : Seq) (s : State) : (s.goTo q).bitidx = s.bitidx := rfl
@[simp] theorem State.goTo_seq (q : Seq) (s : State) : (s.goTo q).seq = q := rfl
@[simp] theorem State.goTo_rst (q : Seq) (s : State) : (s.goTo q).rst = s.rst := rfl
@[simp] theorem State.goTo_pollcnt (q : Seq) (s : State) : (s.goTo q).pollcnt = s.pollcnt := rfl
@[simp] theorem State.goTo_dly (q : Seq) (s : State) : (s.goTo q).dly = s.dly := rfl
@[simp] theorem State.goTo_cmd (q : Seq) (s : State) : (s.goTo q).cmd = s.cmd := rfl
@[simp] theorem State.goTo_result (q : Seq) (s : State) : (s.goTo q).result = s.result := rfl
@[simp] theorem State.goTo_busy (q : Seq) (s : State) : (s.goTo q).busy = s.busy := rfl
@[simp] theorem State.goTo_outcome (q : Seq) (s : State) : (s.goTo q).outcome = s.outcome := rfl
@[simp] theorem State.goTo_pins (q : Seq) (s : State) : (s.goTo q).pins = s.pins := rfl
@[simp] theorem State.goTo_trace (q : Seq) (s : State) : (s.goTo q).trace = s.trace := rfl
@[simp] theorem State.goTo_host (q : Seq) (s : State) : (s.goTo q).host = s.host := rfl
@[simp] theorem State.goTo_past (q : Seq) (s : State) : (s.goTo q).past = s.past := rfl
@[simp] theorem State.goTo_answers (q : Seq) (s : State) : (s.goTo q).answers = s.answers := rfl

@[simp] theorem State.setDly_params (n : Nat) (s : State) : (s.setDly n).params = s.params := rfl
@[simp] theorem State.setDly_acc (n : Nat) (s : State) : (s.setDly n).acc = s.acc := rfl
@[simp] theorem State.setDly_bitidx (n : Nat) (s : State) : (s.setDly n).bitidx = s.bitidx := rfl
@[simp] theorem State.setDly_seq (n : Nat) (s : State) : (s.setDly n).seq = s.seq := rfl
@[simp] theorem State.setDly_rst (n : Nat) (s : State) : (s.setDly n).rst = s.rst := rfl
@[simp] theorem State.setDly_pollcnt (n : Nat) (s : State) : (s.setDly n).pollcnt = s.pollcnt := rfl
@[simp] theorem State.setDly_dly (n : Nat) (s : State) : (s.setDly n).dly = n := rfl
@[simp] theorem State.setDly_cmd (n : Nat) (s : State) : (s.setDly n).cmd = s.cmd := rfl
@[simp] theorem State.setDly_result (n : Nat) (s : State) : (s.setDly n).result = s.result := rfl
@[simp] theorem State.setDly_busy (n : Nat) (s : State) : (s.setDly n).busy = s.busy := rfl
@[simp] theorem State.setDly_outcome (n : Nat) (s : State) : (s.setDly n).outcome = s.outcome := rfl
@[simp] theorem State.setDly_pins (n : Nat) (s : State) : (s.setDly n).pins = s.pins := rfl
@[simp] theorem State.setDly_trace (n : Nat) (s : State) : (s.setDly n).trace = s.trace := rfl
@[simp] theorem State.setDly_host (n : Nat) (s : State) : (s.setDly n).host = s.host := rfl
@[simp] theorem State.setDly_past (n : Nat) (s : State) : (s.setDly n).past = s.past := rfl
@[simp] theorem State.setDly_answers (n : Nat) (s : State) : (s.setDly n).answers = s.answers := rfl

@[simp] theorem State.passDelay_params (s : State) : (s.passDelay).params = s.params := rfl
@[simp] theorem State.passDelay_acc (s : State) : (s.passDelay).acc = s.acc := rfl
@[simp] theorem State.passDelay_bitidx (s : State) : (s.passDelay).bitidx = s.bitidx := rfl
@[simp] theorem State.passDelay_seq (s : State) : (s.passDelay).seq = if s.dly = 0 then afterDelay s.seq else s.seq := rfl
@[simp] theorem State.passDelay_rst (s : State) : (s.passDelay).rst = s.rst := rfl
@[simp] theorem State.passDelay_pollcnt (s : State) : (s.passDelay).pollcnt = s.pollcnt := rfl
@[simp] theorem State.passDelay_dly (s : State) : (s.passDelay).dly = s.dly := rfl
@[simp] theorem State.passDelay_cmd (s : State) : (s.passDelay).cmd = s.cmd := rfl
@[simp] theorem State.passDelay_result (s : State) : (s.passDelay).result = s.result := rfl
@[simp] theorem State.passDelay_busy (s : State) : (s.passDelay).busy = s.busy := rfl
@[simp] theorem State.passDelay_outcome (s : State) : (s.passDelay).outcome = s.outcome := rfl
@[simp] theorem State.passDelay_pins (s : State) : (s.passDelay).pins = s.pins := rfl
@[simp] theorem State.passDelay_trace (s : State) : (s.passDelay).trace = s.trace := rfl
@[simp] theorem State.passDelay_host (s : State) : (s.passDelay).host = s.host := rfl
@[simp] theorem State.passDelay_past (s : State) : (s.passDelay).past = s.past := rfl
@[simp] theorem State.passDelay_answers (s : State) : (s.passDelay).answers = s.answers := rfl

@[simp] theorem State.enterDelay_params (t : Nat) (s : State) : (s.enterDelay t).params = s.params := rfl
@[simp] theorem State.enterDelay_acc (t : Nat) (s : State) : (s.enterDelay t).acc = s.acc := rfl
@[simp] theorem State.enterDelay_bitidx (t : Nat) (s : State) : (s.enterDelay t).bitidx = s.bitidx := rfl
@[simp] theorem State.enterDelay_seq (t : Nat) (s : State) : (s.enterDelay t).seq =
    if t = 0 then afterDelay s.seq else s.seq := rfl
@[simp] theorem State.enterDelay_rst (t : Nat) (s : State) : (s.enterDelay t).rst = s.rst := rfl
@[simp] theorem State.enterDelay_pollcnt (t : Nat) (s : State) : (s.enterDelay t).pollcnt = s.pollcnt := rfl
@[simp] theorem State.enterDelay_dly (t : Nat) (s : State) : (s.enterDelay t).dly = t := rfl
@[simp] theorem State.enterDelay_cmd (t : Nat) (s : State) : (s.enterDelay t).cmd = s.cmd := rfl
@[simp] theorem State.enterDelay_result (t : Nat) (s : State) : (s.enterDelay t).result = s.result := rfl
@[simp] theorem State.enterDelay_busy (t : Nat) (s : State) : (s.enterDelay t).busy = s.busy := rfl
@[simp] theorem State.enterDelay_outcome (t : Nat) (s : State) : (s.enterDelay t).outcome = s.outcome := rfl
@[simp] theorem State.enterDelay_pins (t : Nat) (s : State) : (s.enterDelay t).pins = s.pins := rfl
@[simp] theorem State.enterDelay_trace (t : Nat) (s : State) : (s.enterDelay t).trace = s.trace ++ [.d t] := rfl
@[simp] theorem State.enterDelay_host (t : Nat) (s : State) : (s.enterDelay t).host = s.host := rfl
@[simp] theorem State.enterDelay_past (t : Nat) (s : State) : (s.enterDelay t).past = s.past := rfl
@[simp] theorem State.enterDelay_answers (t : Nat) (s : State) : (s.enterDelay t).answers = s.answers := rfl

@[simp] theorem State.countDown_params (s : State) : (s.countDown).params = s.params := rfl
@[simp] theorem State.countDown_acc (s : State) : (s.countDown).acc = s.acc := rfl
@[simp] theorem State.countDown_bitidx (s : State) : (s.countDown).bitidx = s.bitidx := rfl
@[simp] theorem State.countDown_seq (s : State) : (s.countDown).seq = if s.dly - 1 = 0 then afterDelay s.seq else s.seq := rfl
@[simp] theorem State.countDown_rst (s : State) : (s.countDown).rst = s.rst := rfl
@[simp] theorem State.countDown_pollcnt (s : State) : (s.countDown).pollcnt = s.pollcnt := rfl
@[simp] theorem State.countDown_dly (s : State) : (s.countDown).dly = s.dly - 1 := rfl
@[simp] theorem State.countDown_cmd (s : State) : (s.countDown).cmd = s.cmd := rfl
@[simp] theorem State.countDown_result (s : State) : (s.countDown).result = s.result := rfl
@[simp] theorem State.countDown_busy (s : State) : (s.countDown).busy = s.busy := rfl
@[simp] theorem State.countDown_outcome (s : State) : (s.countDown).outcome = s.outcome := rfl
@[simp] theorem State.countDown_pins (s : State) : (s.countDown).pins = s.pins := rfl
@[simp] theorem State.countDown_trace (s : State) : (s.countDown).trace = s.trace := rfl
@[simp] theorem State.countDown_host (s : State) : (s.countDown).host = s.host := rfl
@[simp] theorem State.countDown_past (s : State) : (s.countDown).past = s.past := rfl
@[simp] theorem State.countDown_answers (s : State) : (s.countDown).answers = s.answers := rfl

@[simp] theorem State.setRst_params (r : Rst) (s : State) : (s.setRst r).params = s.params := rfl
@[simp] theorem State.setRst_acc (r : Rst) (s : State) : (s.setRst r).acc = s.acc := rfl
@[simp] theorem State.setRst_bitidx (r : Rst) (s : State) : (s.setRst r).bitidx = s.bitidx := rfl
@[simp] theorem State.setRst_seq (r : Rst) (s : State) : (s.setRst r).seq = s.seq := rfl
@[simp] theorem State.setRst_rst (r : Rst) (s : State) : (s.setRst r).rst = r := rfl
@[simp] theorem State.setRst_pollcnt (r : Rst) (s : State) : (s.setRst r).pollcnt = s.pollcnt := rfl
@[simp] theorem State.setRst_dly (r : Rst) (s : State) : (s.setRst r).dly = s.dly := rfl
@[simp] theorem State.setRst_cmd (r : Rst) (s : State) : (s.setRst r).cmd = s.cmd := rfl
@[simp] theorem State.setRst_result (r : Rst) (s : State) : (s.setRst r).result = s.result := rfl
@[simp] theorem State.setRst_busy (r : Rst) (s : State) : (s.setRst r).busy = s.busy := rfl
@[simp] theorem State.setRst_outcome (r : Rst) (s : State) : (s.setRst r).outcome = s.outcome := rfl
@[simp] theorem State.setRst_pins (r : Rst) (s : State) : (s.setRst r).pins = s.pins := rfl
@[simp] theorem State.setRst_trace (r : Rst) (s : State) : (s.setRst r).trace = s.trace := rfl
@[simp] theorem State.setRst_host (r : Rst) (s : State) : (s.setRst r).host = s.host := rfl
@[simp] theorem State.setRst_past (r : Rst) (s : State) : (s.setRst r).past = s.past := rfl
@[simp] theorem State.setRst_answers (r : Rst) (s : State) : (s.setRst r).answers = s.answers := rfl

@[simp] theorem State.setPolls_params (n : Nat) (s : State) : (s.setPolls n).params = s.params := rfl
@[simp] theorem State.setPolls_acc (n : Nat) (s : State) : (s.setPolls n).acc = s.acc := rfl
@[simp] theorem State.setPolls_bitidx (n : Nat) (s : State) : (s.setPolls n).bitidx = s.bitidx := rfl
@[simp] theorem State.setPolls_seq (n : Nat) (s : State) : (s.setPolls n).seq = s.seq := rfl
@[simp] theorem State.setPolls_rst (n : Nat) (s : State) : (s.setPolls n).rst = s.rst := rfl
@[simp] theorem State.setPolls_pollcnt (n : Nat) (s : State) : (s.setPolls n).pollcnt = n := rfl
@[simp] theorem State.setPolls_dly (n : Nat) (s : State) : (s.setPolls n).dly = s.dly := rfl
@[simp] theorem State.setPolls_cmd (n : Nat) (s : State) : (s.setPolls n).cmd = s.cmd := rfl
@[simp] theorem State.setPolls_result (n : Nat) (s : State) : (s.setPolls n).result = s.result := rfl
@[simp] theorem State.setPolls_busy (n : Nat) (s : State) : (s.setPolls n).busy = s.busy := rfl
@[simp] theorem State.setPolls_outcome (n : Nat) (s : State) : (s.setPolls n).outcome = s.outcome := rfl
@[simp] theorem State.setPolls_pins (n : Nat) (s : State) : (s.setPolls n).pins = s.pins := rfl
@[simp] theorem State.setPolls_trace (n : Nat) (s : State) : (s.setPolls n).trace = s.trace := rfl
@[simp] theorem State.setPolls_host (n : Nat) (s : State) : (s.setPolls n).host = s.host := rfl
@[simp] theorem State.setPolls_past (n : Nat) (s : State) : (s.setPolls n).past = s.past := rfl
@[simp] theorem State.setPolls_answers (n : Nat) (s : State) : (s.setPolls n).answers = s.answers := rfl

@[simp] theorem State.standBefore_params (w : Word) (s : State) : (s.standBefore w).params = s.params := rfl
@[simp] theorem State.standBefore_acc (w : Word) (s : State) : (s.standBefore w).acc = s.acc := rfl
@[simp] theorem State.standBefore_bitidx (w : Word) (s : State) : (s.standBefore w).bitidx = s.bitidx := rfl
@[simp] theorem State.standBefore_seq (w : Word) (s : State) : (s.standBefore w).seq = .link .chipReset 24 w .load := rfl
@[simp] theorem State.standBefore_rst (w : Word) (s : State) : (s.standBefore w).rst = s.rst := rfl
@[simp] theorem State.standBefore_pollcnt (w : Word) (s : State) : (s.standBefore w).pollcnt = s.pollcnt := rfl
@[simp] theorem State.standBefore_dly (w : Word) (s : State) : (s.standBefore w).dly = s.dly := rfl
@[simp] theorem State.standBefore_cmd (w : Word) (s : State) : (s.standBefore w).cmd = s.cmd := rfl
@[simp] theorem State.standBefore_result (w : Word) (s : State) : (s.standBefore w).result = s.result := rfl
@[simp] theorem State.standBefore_busy (w : Word) (s : State) : (s.standBefore w).busy = s.busy := rfl
@[simp] theorem State.standBefore_outcome (w : Word) (s : State) : (s.standBefore w).outcome = s.outcome := rfl
@[simp] theorem State.standBefore_pins (w : Word) (s : State) : (s.standBefore w).pins = s.pins := rfl
@[simp] theorem State.standBefore_trace (w : Word) (s : State) : (s.standBefore w).trace = s.trace := rfl
@[simp] theorem State.standBefore_host (w : Word) (s : State) : (s.standBefore w).host = s.host := rfl
@[simp] theorem State.standBefore_past (w : Word) (s : State) : (s.standBefore w).past = s.past := rfl
@[simp] theorem State.standBefore_answers (w : Word) (s : State) : (s.standBefore w).answers = s.answers := rfl

@[simp] theorem State.standAfter_params (w : Word) (s : State) : (s.standAfter w).params = s.params := rfl
@[simp] theorem State.standAfter_acc (w : Word) (s : State) : (s.standAfter w).acc = s.acc := rfl
@[simp] theorem State.standAfter_bitidx (w : Word) (s : State) : (s.standAfter w).bitidx = s.bitidx := rfl
@[simp] theorem State.standAfter_seq (w : Word) (s : State) : (s.standAfter w).seq = .link .chipReset 24 w .done := rfl
@[simp] theorem State.standAfter_rst (w : Word) (s : State) : (s.standAfter w).rst = s.rst := rfl
@[simp] theorem State.standAfter_pollcnt (w : Word) (s : State) : (s.standAfter w).pollcnt = s.pollcnt := rfl
@[simp] theorem State.standAfter_dly (w : Word) (s : State) : (s.standAfter w).dly = s.dly := rfl
@[simp] theorem State.standAfter_cmd (w : Word) (s : State) : (s.standAfter w).cmd = s.cmd := rfl
@[simp] theorem State.standAfter_result (w : Word) (s : State) : (s.standAfter w).result = s.result := rfl
@[simp] theorem State.standAfter_busy (w : Word) (s : State) : (s.standAfter w).busy = s.busy := rfl
@[simp] theorem State.standAfter_outcome (w : Word) (s : State) : (s.standAfter w).outcome = s.outcome := rfl
@[simp] theorem State.standAfter_pins (w : Word) (s : State) : (s.standAfter w).pins = s.pins := rfl
@[simp] theorem State.standAfter_trace (w : Word) (s : State) : (s.standAfter w).trace = s.trace := rfl
@[simp] theorem State.standAfter_host (w : Word) (s : State) : (s.standAfter w).host = s.host := rfl
@[simp] theorem State.standAfter_past (w : Word) (s : State) : (s.standAfter w).past = s.past := rfl
@[simp] theorem State.standAfter_answers (w : Word) (s : State) : (s.standAfter w).answers = s.answers := rfl

@[simp] theorem afterWindow_params (out : Word) (ls : List Level) (s : State) : (afterWindow s out ls).params = s.params := rfl
@[simp] theorem afterWindow_acc (out : Word) (ls : List Level) (s : State) : (afterWindow s out ls).acc = overlay out ls := rfl
@[simp] theorem afterWindow_bitidx (out : Word) (ls : List Level) (s : State) : (afterWindow s out ls).bitidx = 0 := rfl
@[simp] theorem afterWindow_seq (out : Word) (ls : List Level) (s : State) : (afterWindow s out ls).seq = s.seq := rfl
@[simp] theorem afterWindow_rst (out : Word) (ls : List Level) (s : State) : (afterWindow s out ls).rst = s.rst := rfl
@[simp] theorem afterWindow_pollcnt (out : Word) (ls : List Level) (s : State) : (afterWindow s out ls).pollcnt = s.pollcnt := rfl
@[simp] theorem afterWindow_dly (out : Word) (ls : List Level) (s : State) : (afterWindow s out ls).dly = 0 := rfl
@[simp] theorem afterWindow_cmd (out : Word) (ls : List Level) (s : State) : (afterWindow s out ls).cmd = s.cmd := rfl
@[simp] theorem afterWindow_result (out : Word) (ls : List Level) (s : State) : (afterWindow s out ls).result = s.result := rfl
@[simp] theorem afterWindow_busy (out : Word) (ls : List Level) (s : State) : (afterWindow s out ls).busy = s.busy := rfl
@[simp] theorem afterWindow_outcome (out : Word) (ls : List Level) (s : State) : (afterWindow s out ls).outcome = s.outcome := rfl
@[simp] theorem afterWindow_pins (out : Word) (ls : List Level) (s : State) : (afterWindow s out ls).pins = restPins s out := rfl
@[simp] theorem afterWindow_trace (out : Word) (ls : List Level) (s : State) : (afterWindow s out ls).trace = s.trace ++ transactionEvents s.params out ls := rfl
@[simp] theorem afterWindow_host (out : Word) (ls : List Level) (s : State) : (afterWindow s out ls).host = s.host := rfl
@[simp] theorem afterWindow_past (out : Word) (ls : List Level) (s : State) : (afterWindow s out ls).past = s.past := rfl
@[simp] theorem afterWindow_answers (out : Word) (ls : List Level) (s : State) : (afterWindow s out ls).answers = if pinDriven s.pins.miso then s.answers else s.answers.drop ls.length := rfl

end Sys2Proof.Machine
end

