-- ==== Sys2Proof/Laws/Pins.lean ====
section
/-! SUPPORT. The pin controller: what a store to the pin of one role does to every pin. -/

namespace Sys2Proof.Machine

@[simp] theorem Pins.ofRole_modify (p : Pins) (r r' : Role) (f : PinCtl → PinCtl) :
    (p.modify r f).ofRole r' = if r' = r then f (p.ofRole r') else p.ofRole r' := by
  cases r <;> cases r' <;> simp [Pins.modify, Pins.ofRole]

@[simp] theorem Pins.extras_modify (p : Pins) (r : Role) (f : PinCtl → PinCtl) :
    (p.modify r f).extras = p.extras := by
  cases r <;> rfl

@[simp] theorem Pins.ofRole_setOut (p : Pins) (r r' : Role) (l : Level) :
    (p.setOut r l).ofRole r' = if r' = r then { p.ofRole r' with out := l } else p.ofRole r' := by
  simp [Pins.setOut]

@[simp] theorem Pins.ofRole_setFunc (p : Pins) (r r' : Role) (v : Nat) :
    (p.setFunc r v).ofRole r' = if r' = r then { p.ofRole r' with func := v } else p.ofRole r' := by
  simp [Pins.setFunc]

@[simp] theorem Pins.ofRole_setDir (p : Pins) (r r' : Role) (d : Dir) :
    (p.setDir r d).ofRole r' = if r' = r then { p.ofRole r' with dir := d } else p.ofRole r' := by
  simp [Pins.setDir]

@[simp] theorem Pins.ofRole_setPull (p : Pins) (r r' : Role) (m : Pull) :
    (p.setPull r m).ofRole r' = if r' = r then { p.ofRole r' with pull := m } else p.ofRole r' := by
  simp [Pins.setPull]

@[simp] theorem Pins.extras_setOut (p : Pins) (r : Role) (l : Level) : (p.setOut r l).extras = p.extras := by
  simp [Pins.setOut]

@[simp] theorem Pins.extras_setFunc (p : Pins) (r : Role) (v : Nat) : (p.setFunc r v).extras = p.extras := by
  simp [Pins.setFunc]

@[simp] theorem Pins.extras_setDir (p : Pins) (r : Role) (d : Dir) : (p.setDir r d).extras = p.extras := by
  simp [Pins.setDir]

@[simp] theorem Pins.extras_setPull (p : Pins) (r : Role) (m : Pull) : (p.setPull r m).extras = p.extras := by
  simp [Pins.setPull]

@[simp] theorem Pins.ofRole_mapAll (p : Pins) (f : Option Role → PinCtl → PinCtl) (r : Role) :
    (p.mapAll f).ofRole r = f (some r) (p.ofRole r) := by
  cases r <;> rfl

@[simp] theorem Pins.extras_mapAll (p : Pins) (f : Option Role → PinCtl → PinCtl) :
    (p.mapAll f).extras = p.extras.map (f none) := rfl

/-- Two pin controllers are equal when every pin is. -/
theorem Pins.ext_ofRole {p q : Pins} (h : ∀ r, p.ofRole r = q.ofRole r) (he : p.extras = q.extras) : p = q := by
  cases p; cases q
  have := h .csn; have := h .sclk; have := h .mosi; have := h .miso; have := h .en1v8; have := h .en3v3
  have := h .ind0; have := h .ind1; have := h .atest0; have := h .atest1
  simp_all [Pins.ofRole]

theorem Pins.setOut_setOut (p : Pins) (r : Role) (a b : Level) : (p.setOut r a).setOut r b = p.setOut r b := by
  cases r <;> rfl

/-- Stores to the latches of two roles can be made in either order. -/
theorem Pins.setOut_comm (p : Pins) (r r' : Role) (a b : Level) (h : r ≠ r') :
    (p.setOut r a).setOut r' b = (p.setOut r' b).setOut r a := by
  cases r <;> cases r' <;> first | rfl | exact absurd rfl h

@[simp] theorem Pins.miso_setOut (p : Pins) (r : Role) (l : Level) (h : r ≠ .miso) : (p.setOut r l).miso = p.miso := by
  cases r <;> first | rfl | exact absurd rfl h

@[simp] theorem Pins.csn_setOut (p : Pins) (l : Level) : (p.setOut .csn l).csn.out = l := rfl

@[simp] theorem Pins.csn_setOut_of_ne (p : Pins) (r : Role) (l : Level) (h : r ≠ .csn) : (p.setOut r l).csn = p.csn := by
  cases r <;> first | rfl | exact absurd rfl h

/-- A store to an output latch changes neither function nor direction, so it keeps the pins initialised. -/
theorem pinsInitialised_setOut {p : Pins} (h : pinsInitialised p) (r : Role) (l : Level) :
    pinsInitialised (p.setOut r l) := by
  refine ⟨fun r' => ?_, by simpa using h.2⟩
  have := h.1 r'
  rw [Pins.ofRole_setOut]
  split <;> simpa using this

end Sys2Proof.Machine
end

