-- ==== Sys2Proof/Laws/Words.lean ====
section
/-! SUPPORT. Bits of the accumulator: what overwriting a bit, overlaying levels and the low mask do to each bit. -/

namespace Sys2Proof

open Sys2Proof.Machine

theorem getLsbD_one_shiftLeft {n i : Nat} (hn : n < 32) : (1#32 <<< n).getLsbD i = decide (i = n) := by
  rw [BitVec.getLsbD_shiftLeft]
  by_cases h : i = n
  · subst h; simp [hn]
  · simp only [h, decide_false]
    by_cases hlt : i < n
    · simp [hlt]
    · have : i - n ≠ 0 := by omega
      simp [BitVec.getLsbD_one, this]

/-- 42_transport R135: the one bit is overwritten, "no other bit of ACC changes". -/
theorem getLsbD_setBit (a : Word) {n : Nat} (hn : n < 32) (b : Level) (i : Nat) :
    (setBit a n b).getLsbD i = if i = n then b else a.getLsbD i := by
  have hk := @getLsbD_one_shiftLeft n i hn
  unfold setBit
  by_cases h32 : i < 32
  · cases b
    · rw [if_neg (by decide), BitVec.getLsbD_and, BitVec.getLsbD_not, hk]
      by_cases hi : i = n <;> simp [hi, h32]
    · rw [if_pos rfl, BitVec.getLsbD_or, hk]
      by_cases hi : i = n <;> simp [hi]
  · have hi : i ≠ n := by omega
    rw [if_neg hi, BitVec.getLsbD_of_ge _ _ (Nat.le_of_not_lt h32), BitVec.getLsbD_of_ge _ _ (Nat.le_of_not_lt h32)]

/-- 42_transport R140: bit `i` of an overlaid accumulator is level `i` counted from the last. -/
theorem getLsbD_overlay (levels : List Level) : ∀ (a : Word) (_ : levels.length ≤ 32) (i : Nat),
    (overlay a levels).getLsbD i = if h : i < levels.length then levels[levels.length - 1 - i] else a.getLsbD i := by
  induction levels with
  | nil => intro a _ i; simp [overlay]
  | cons l levels ih =>
    intro a h i
    simp only [List.length_cons] at h
    rw [overlay, ih _ (by omega)]
    by_cases hi : i < levels.length
    · have : levels.length - i = (levels.length - 1 - i) + 1 := by omega
      simp [hi, this, Nat.lt_succ_of_lt hi]
    · by_cases he : i = levels.length
      · subst he; simp [getLsbD_setBit _ (show levels.length < 32 by omega)]
      · have h1 : ¬ i < levels.length + 1 := by omega
        simp [hi, h1, he, getLsbD_setBit _ (show levels.length < 32 by omega)]

theorem getLsbD_levelsWord {levels : List Level} (h : levels.length ≤ 32) (i : Nat) :
    (levelsWord levels).getLsbD i = if h : i < levels.length then levels[levels.length - 1 - i] else false := by
  simp [levelsWord, getLsbD_overlay _ _ h]

theorem payloadFits_iff (len : Nat) (out : Word) :
    payloadFits len out = true ↔ ∀ i, len ≤ i → out.getLsbD i = false := by
  simp only [payloadFits, beq_iff_eq]
  constructor
  · intro h i hi
    have := congrArg (fun v => BitVec.getLsbD v (i - len)) h
    simpa [BitVec.getLsbD_ushiftRight, Nat.add_sub_cancel' hi] using this
  · intro h
    apply BitVec.eq_of_getLsbD_eq
    intro i _
    simp [BitVec.getLsbD_ushiftRight, h]

/-- 42_transport R139: in contract the result is the sampled bits, zero-extended. -/
theorem overlay_eq_levelsWord {levels : List Level} {out : Word} (h : levels.length ≤ 32)
    (hf : payloadFits levels.length out = true) : overlay out levels = levelsWord levels := by
  apply BitVec.eq_of_getLsbD_eq
  intro i _
  rw [getLsbD_overlay _ _ h, getLsbD_levelsWord h]
  split
  · rfl
  · exact (payloadFits_iff _ _).1 hf i (by omega)

theorem getLsbD_lowMask {len : Nat} (h : len ≤ 32) (i : Nat) : (lowMask len).getLsbD i = decide (i < len) := by
  have hm : lowMask len = BitVec.ofNat 32 (2 ^ len - 1) := by
    rcases Nat.lt_or_eq_of_le h with hlt | rfl
    · apply BitVec.eq_of_toNat_eq
      have h1 : 2 ^ len < 2 ^ 32 := Nat.pow_lt_pow_right (by omega) hlt
      have h2 : 0 < 2 ^ len := Nat.two_pow_pos len
      simp only [lowMask, BitVec.toNat_sub, BitVec.toNat_shiftLeft, BitVec.toNat_ofNat, Nat.shiftLeft_eq]
      have e1 : 1 % 2 ^ 32 * 2 ^ len % 2 ^ 32 = 2 ^ len := by
        rw [Nat.mod_eq_of_lt (by decide : 1 < 2 ^ 32), Nat.one_mul, Nat.mod_eq_of_lt h1]
      rw [e1, Nat.mod_eq_of_lt (by decide : 1 < 2 ^ 32), Nat.mod_eq_of_lt (a := 2 ^ len - 1) (by omega)]
      omega
    · decide
  rw [hm, BitVec.getLsbD_ofNat, Nat.testBit_two_pow_sub_one]
  by_cases hi : i < len
  · have : i < 32 := by omega
    simp [hi, this]
  · simp [hi]

@[simp] theorem levelsWord_nil : levelsWord [] = 0 := rfl

/-- The words of the four register operations fit their frames (30_encoding R91 to R93). -/
theorem payloadFits_readWord (a : BitVec 8) : payloadFits 24 (readWord a) = true := by
  rw [payloadFits_iff]
  intro i hi
  simp only [readWord, BitVec.getLsbD_shiftLeft, BitVec.getLsbD_setWidth]
  have : ¬ i - 16 < 8 := by omega
  rw [BitVec.getLsbD_of_ge (a ||| readFlag) (i - 16) (by omega)]
  simp

theorem payloadFits_writeWord (a : BitVec 8) (v : Value) : payloadFits 24 (writeWord a v) = true := by
  rw [payloadFits_iff]
  intro i hi
  simp only [writeWord, BitVec.getLsbD_or, BitVec.getLsbD_shiftLeft, BitVec.getLsbD_setWidth]
  rw [BitVec.getLsbD_of_ge a (i - 16) (by omega), BitVec.getLsbD_of_ge v i (by omega)]
  simp

theorem payloadFits_strobeWord (a : BitVec 8) : payloadFits 8 (strobeWord a) = true := by
  rw [payloadFits_iff]
  intro i hi
  simp only [strobeWord, BitVec.getLsbD_setWidth]
  rw [BitVec.getLsbD_of_ge a i hi]
  simp

theorem payloadFits_statusWord : payloadFits 8 statusWord = true := by decide

/-- The two fields of a timeout's report (44_reset_seq R179): the last readback and the phase. -/
theorem timeoutReport_fields (phase : Bool) (v : Value) : (timeoutReport phase v).extractLsb' 0 16 = v ∧
    (timeoutReport phase v).extractLsb' 16 16 = if phase then 1 else 0 := by
  have low : ∀ i < 16, ((if phase then 1#32 else 0#32) <<< 16).getLsbD i = false := by revert phase; decide
  have high : ∀ i < 16, ((if phase then 1#32 else 0#32) <<< 16).getLsbD (16 + i) =
      (if phase then 1#16 else 0#16).getLsbD i := by revert phase; decide
  constructor
  · apply BitVec.eq_of_getLsbD_eq
    intro i hi
    have h32 : i < 32 := by omega
    rw [timeoutReport, BitVec.getLsbD_extractLsb', BitVec.getLsbD_or, BitVec.getLsbD_setWidth, Nat.zero_add, low i hi]
    simp [hi, h32]
  · apply BitVec.eq_of_getLsbD_eq
    intro i hi
    rw [timeoutReport, BitVec.getLsbD_extractLsb', BitVec.getLsbD_or, BitVec.getLsbD_setWidth, high i hi,
      BitVec.getLsbD_of_ge v _ (by omega)]
    simp [hi]

end Sys2Proof
end

