-- ==== Sys2Proof/Laws/Transport.lean ====
section
/-! SUPPORT. The transaction: one lemma, `transaction_eq`, says everything a transaction does. -/

namespace Sys2Proof.Machine

/-- What sampling MISO `n` times in a row leaves of the chip's answers. -/
def answersAfter (s : State) (n : Nat) : List Level :=
  if pinDriven s.pins.miso then s.answers else s.answers.drop n

theorem line_miso (s : State) : s.line (.role .miso) =
    if pinDriven s.pins.miso then s.pins.miso.out else s.envLevel (.role .miso) := rfl

/-- One bit of the loop (42_transport R132), as one state. -/
theorem shiftBit_eq (n : Nat) (s : State) : ∃ l : Level,
    (answersKnown s 1 → heardLevels s 1 = [l]) ∧
    s.shiftBit n = { s with
      acc := setBit s.acc n l
      bitidx := BitVec.ofNat 6 n
      dly := 0
      pins := (s.pins.setOut .mosi (s.acc.getLsbD n)).setOut .sclk false
      trace := s.trace ++ [.w .mosi (s.acc.getLsbD n), .d s.params.tSetup, .w .sclk true, .s .miso l,
        .d s.params.tHold, .w .sclk false]
      answers := answersAfter s 1 } := by
  refine ⟨((((s.setIndex n).drive .mosi (s.acc.getLsbD n)).delay s.params.tSetup).drive .sclk true).line (.role .miso),
    ?_, ?_⟩
  · intro h
    change heardLevels s 1 = [if pinDriven s.pins.miso then s.pins.miso.out else _]
    unfold heardLevels
    cases hd : pinDriven s.pins.miso with
    | true => rfl
    | false =>
      rcases h with h | h
      · exact absurd h (by simp [hd])
      · change s.answers.take 1 = [match Pin.role .miso, s.answers with | .role .miso, l :: _ => l | p, _ => _]
        cases ha : s.answers with
        | nil => simp [ha] at h
        | cons a as => rfl
  · simp only [State.shiftBit, State.delay, State.startDelay, State.endDelay, State.drive, State.sampleInto,
      State.setIndex, State.answersAfterSample, answersAfter, List.drop_one, List.append_assoc, List.cons_append,
      List.nil_append]
    rfl

theorem answersAfter_zero (s : State) : answersAfter s 0 = s.answers := by
  unfold answersAfter; split <;> simp

/-- The bit loop from position `n` down, as one state (42_transport R132, R140, R141). -/
theorem shiftBits_eq (out : Word) : ∀ (n : Nat) (s : State), n ≤ 31 →
    (∀ i ≤ n, s.acc.getLsbD i = out.getLsbD i) →
    ∃ levels : List Level, levels.length = n + 1 ∧
      (answersKnown s (n + 1) → heardLevels s (n + 1) = levels) ∧
      s.shiftBits (n + 1) = { s with
        acc := overlay s.acc levels
        bitidx := 0
        dly := 0
        pins := (s.pins.setOut .mosi (out.getLsbD 0)).setOut .sclk false
        trace := s.trace ++ bitEvents s.params out levels
        answers := answersAfter s (n + 1) } := by
  intro n
  induction n with
  | zero =>
    intro s _ hacc
    obtain ⟨l, hl, e⟩ := shiftBit_eq 0 s
    refine ⟨[l], rfl, hl, ?_⟩
    simp only [State.shiftBits, e, hacc 0 (Nat.le_refl 0), overlay, bitEvents, List.length_nil, List.append_nil,
      BitVec.ofNat_eq_ofNat]
  | succ n ih =>
    intro s hn hacc
    obtain ⟨l, hl, e⟩ := shiftBit_eq (n + 1) s
    obtain ⟨levels, hlen, hheard, e'⟩ := ih (s.shiftBit (n + 1)) (by omega) (by
      intro i hi
      rw [e]
      simp only [getLsbD_setBit _ (show n + 1 < 32 by omega)]
      rw [if_neg (by omega), hacc i (by omega)])
    have hmiso : (s.shiftBit (n + 1)).pins.miso = s.pins.miso := by
      rw [e]
      simp [Pins.miso_setOut]
    have hans : (s.shiftBit (n + 1)).answers = answersAfter s 1 := by rw [e]
    refine ⟨l :: levels, by simp [hlen], ?_, ?_⟩
    · intro hk
      have hl' := hl (hk.imp id (by omega))
      have hh' := hheard (by
        rcases hk with hk | hk
        · exact Or.inl (by rw [hmiso]; exact hk)
        · by_cases hd : pinDriven s.pins.miso = true
          · exact Or.inl (by rw [hmiso]; exact hd)
          · refine Or.inr ?_
            rw [hans]
            simp [answersAfter, hd]
            omega)
      simp only [heardLevels, hmiso, hans, answersAfter] at hl' hh' ⊢
      by_cases hd : pinDriven s.pins.miso = true
      · simp only [hd, if_true] at hl' hh' ⊢
        rw [List.replicate_succ, hh']
        simp only [List.replicate_one] at hl'
        injection hl' with h1 _
        rw [h1]
      · simp only [hd, Bool.false_eq_true, if_false] at hl' hh' ⊢
        cases ha : s.answers with
        | nil => simp [ha] at hl'
        | cons a as =>
          simp only [ha, List.take_succ_cons, List.take_zero, List.drop_succ_cons, List.drop_zero] at hl' hh' ⊢
          injection hl' with h1 _
          rw [h1, hh']
    · rw [State.shiftBits, e', e]
      have hlen' : levels.length = n + 1 := hlen
      simp only [overlay, bitEvents, hlen', hacc (n + 1) (Nat.le_refl _), List.append_assoc]
      have hp : ∀ (p : Pins) (a b : Level), ((((p.setOut .mosi a).setOut .sclk false).setOut .mosi b).setOut .sclk false)
          = (p.setOut .mosi b).setOut .sclk false := fun _ _ _ => rfl
      have ha : answersAfter (s.shiftBit (n + 1)) (n + 1) = answersAfter s (n + 2) := by
        unfold answersAfter
        rw [hmiso, hans]
        unfold answersAfter
        split
        · rfl
        · rw [List.drop_drop, Nat.add_comm]
      have hb : ∀ (u v : State), u.pins.miso = v.pins.miso → u.answers = v.answers →
          answersAfter u (n + 1) = answersAfter v (n + 1) := by
        intro u v h1 h2; unfold answersAfter; rw [h1, h2]
      rw [← ha, hp]
      congr 1
      exact hb _ _ (by rw [hmiso]; rfl) (by rw [hans])

/-- Everything a transaction does (42_transport R131 to R141): from any state the window's state of some levels, as many
as its length; the levels are the ones heard when the state settles them. -/
theorem transaction_eq (len : Nat) (out : Word) (s : State) (h1 : 1 ≤ len) (h32 : len ≤ 32) :
    ∃ levels : List Level, levels.length = len ∧ (answersKnown s len → heardLevels s len = levels) ∧
      s.transaction len out = afterWindow s out levels := by
  obtain ⟨n, rfl⟩ : ∃ n, len = n + 1 := ⟨len - 1, by omega⟩
  obtain ⟨levels, hlen, hheard, e⟩ :=
    shiftBits_eq out n ((s.loadAcc (n + 1) out).assertPin .csn) (by omega) (fun i _ => rfl)
  refine ⟨levels, hlen, fun hk => ?_, ?_⟩
  · have := hheard hk
    exact this
  · have hp : ∀ (p : Pins) (a b c : Level), (((p.setOut .csn a).setOut .mosi b).setOut .sclk false).setOut .csn c
        = ((p.setOut .mosi b).setOut .sclk false).setOut .csn c := fun _ _ _ _ => rfl
    rw [State.transaction, e]
    simp only [State.delay, State.startDelay, State.endDelay, State.deassertPin, State.assertPin, State.drive,
      State.loadAcc, afterWindow, restPins, transactionEvents, hp, hlen, List.append_assoc, List.cons_append,
      List.nil_append, answersAfter]
    rfl

/-- The transaction and the levels it heard, for a state that settles them (42_transport R140: "returns exactly the echoed
pattern"). -/
theorem transaction_of_known (len : Nat) (out : Word) (s : State) (h1 : 1 ≤ len) (h32 : len ≤ 32)
    (hk : answersKnown s len) : s.transaction len out = afterWindow s out (heardLevels s len) := by
  obtain ⟨levels, _, hheard, e⟩ := transaction_eq len out s h1 h32
  rw [e, hheard hk]

theorem heardLevels_length {s : State} {n : Nat} (hk : answersKnown s n) : (heardLevels s n).length = n := by
  unfold heardLevels
  cases hd : pinDriven s.pins.miso with
  | true => simp
  | false =>
    rcases hk with h | h
    · simp [hd] at h
    · simp [h]

/-- `inputWord` after a transaction in contract (42_transport R139, R140). -/
theorem afterWindow_acc_of_fits (s : State) {out : Word} {levels : List Level} (h : levels.length ≤ 32)
    (hf : payloadFits levels.length out = true) : (afterWindow s out levels).acc = levelsWord levels :=
  overlay_eq_levelsWord h hf

/-- Only CSN, MOSI and SCLK are stored to, and only their latches (43_register_access R164). -/
theorem restPins_ofRole (s : State) (out : Word) (r : Role) : (restPins s out).ofRole r =
    { s.pins.ofRole r with out := match r with
      | .mosi => out.getLsbD 0
      | .sclk => false
      | .csn => s.params.idle .csn
      | r => (s.pins.ofRole r).out } := by
  cases r <;> rfl

theorem restPins_extras (s : State) (out : Word) : (restPins s out).extras = s.pins.extras := rfl

theorem returnWord_of_fits {len : Nat} {out : Word} (s : State) (hf : payloadFits len out = true) :
    s.returnWord len out = s := by
  simp [State.returnWord, hf]

/-- `returnWord` changes the accumulator only, and none of its low `len` bits (42_transport R139, 93 U3). -/
theorem returnWord_eq (len : Nat) (out : Word) (s : State) (h : len ≤ 32) :
    ∃ a : Word, (∀ i < len, a.getLsbD i = s.acc.getLsbD i) ∧ s.returnWord len out = { s with acc := a } := by
  unfold State.returnWord
  split
  · exact ⟨s.acc, fun _ _ => rfl, rfl⟩
  · refine ⟨_, fun i hi => ?_, rfl⟩
    have h32 : i < 32 := by omega
    rw [BitVec.getLsbD_or, BitVec.getLsbD_and, BitVec.getLsbD_and, BitVec.getLsbD_not, getLsbD_lowMask h]
    simp [hi, h32]

/-! The events of a transaction. -/

theorem bitEvents_length (p : Params) (out : Word) (levels : List Level) :
    (bitEvents p out levels).length = 6 * levels.length := by
  induction levels with
  | nil => rfl
  | cons l levels ih => simp [bitEvents, ih]; omega

/-- "6·len + 3 events" (42_transport R141). -/
theorem transactionEvents_length (p : Params) (out : Word) (levels : List Level) :
    (transactionEvents p out levels).length = 6 * levels.length + 3 := by
  simp [transactionEvents, bitEvents_length]

theorem clockPulses_append (a b : List Event) : clockPulses (a ++ b) = clockPulses a + clockPulses b := by
  simp [clockPulses, List.countP_append]

theorem clockPulses_bitEvents (p : Params) (out : Word) (levels : List Level) :
    clockPulses (bitEvents p out levels) = levels.length := by
  induction levels with
  | nil => rfl
  | cons l levels ih =>
    rw [bitEvents, clockPulses_append, ih]
    simp [clockPulses]
    omega

/-- Exactly `len` clock pulses (42_transport R132, R141). -/
theorem clockPulses_transactionEvents (p : Params) (out : Word) (levels : List Level) :
    clockPulses (transactionEvents p out levels) = levels.length := by
  simp only [transactionEvents, clockPulses_append, clockPulses_bitEvents]
  simp [clockPulses]

end Sys2Proof.Machine
end

