-- ==== Sys2Proof/Laws/ChipReset.lean ====
section
/-! SUPPORT. CHIP_RESET: one lemma for a write, one for a poll, and what each of its executions can be. -/

namespace Sys2Proof.Machine

theorem lowValue_of_poll (s : State) {levels : List Level} (h : levels.length = 24) :
    lowValue (afterWindow s s.pollFrame levels).acc = readback levels := by
  rw [afterWindow_acc_of_fits s (by omega) (by rw [h]; exact payloadFits_readWord _)]
  rfl

/-! The levels a transaction of CHIP_RESET hears, by their place in the chip's answers. -/

/-- A transaction of 24 bits hears the next 24 answers. -/
theorem eq_answersOf {s : State} {levels : List Level} (hm : pinDriven s.pins.miso = false) (hk : 24 ≤ s.answers.length)
    (hh : answersKnown s 24 → heardLevels s 24 = levels) : levels = answersOf s 0 := by
  rw [← hh (.inr hk)]
  simp [heardLevels, hm, answersOf]

theorem answersOf_length {s : State} {k : Nat} (h : k + 24 ≤ s.answers.length) : (answersOf s k).length = 24 := by
  simp [answersOf]
  omega

/-- The answers left after a transaction that heard the next 24. -/
theorem answers_afterWindow (s : State) (out : Word) (hm : pinDriven s.pins.miso = false) :
    (afterWindow s out (answersOf s 0)).answers = s.answers.drop 24 := by
  rw [afterWindow_answers, hm]
  simp [answersOf]

theorem answersOf_of_drop {s t : State} {k : Nat} (j : Nat) (h : t.answers = s.answers.drop k) :
    answersOf t j = answersOf s (k + j) := by
  rw [answersOf, answersOf, h, List.drop_drop]

theorem pollsExhausted_of_mayPollAgain {p : Params} {n : Nat} (h : mayPollAgain p n) :
    pollsExhausted p.pollLimit n = false := by
  unfold pollsExhausted
  split
  · rfl
  · have := h _ ‹_›
    simp
    omega

theorem judgePoll_of_match {sentinel : Value} (phase : Bool) (matched : State → State) {u : State}
    (h : lowValue u.acc = sentinel) : u.judgePoll sentinel phase matched = matched (u.setPolls (u.pollcnt + 1)) := by
  unfold State.judgePoll readbackMatches
  rw [if_pos (beq_iff_eq.2 h)]

theorem judgePoll_of_exhausted {sentinel : Value} (phase : Bool) (matched : State → State) {u : State}
    (h : lowValue u.acc ≠ sentinel) (hx : pollsExhausted u.params.pollLimit (u.pollcnt + 1) = true) :
    u.judgePoll sentinel phase matched = (u.setPolls (u.pollcnt + 1)).failReset phase := by
  unfold State.judgePoll readbackMatches
  rw [if_neg (by simpa using h), if_pos hx]

theorem judgePoll_of_miss {sentinel : Value} (phase : Bool) (matched : State → State) {u : State}
    (h : lowValue u.acc ≠ sentinel) (hx : ¬ pollsExhausted u.params.pollLimit (u.pollcnt + 1) = true) :
    u.judgePoll sentinel phase matched = (u.setPolls (u.pollcnt + 1)).standBefore u.pollFrame := by
  unfold State.judgePoll readbackMatches
  rw [if_neg (by simpa using h), if_neg hx]

/-- The write of sentinel A (44_reset_seq R172): the state changes after the write's transaction has ended. -/
theorem writeA_eq (s : State) (h : s.rst = .idle) : ∃ levels : List Level, levels.length = 24 ∧
    (answersKnown s 24 → heardLevels s 24 = levels) ∧
    s.resetTransaction (s.sentinelFrame sentinelA) =
      { afterWindow s (s.sentinelFrame sentinelA) levels with
        rst := .disabling, pollcnt := 0, seq := .link .chipReset 24 s.pollFrame .load } := by
  obtain ⟨levels, hlen, hheard, e⟩ := transaction_eq 24 (s.sentinelFrame sentinelA) s (by omega) (by omega)
  refine ⟨levels, hlen, hheard, ?_⟩
  rw [State.resetTransaction, e, State.resetContinue]
  simp only [afterWindow_rst, h]
  rfl

/-- The write of sentinel B (44_reset_seq R174). -/
theorem writeB_eq (s : State) (h : s.rst = .confirmedDisabled) : ∃ levels : List Level, levels.length = 24 ∧
    (answersKnown s 24 → heardLevels s 24 = levels) ∧
    s.resetTransaction (s.sentinelFrame sentinelB) =
      { afterWindow s (s.sentinelFrame sentinelB) levels with
        rst := .enabling, pollcnt := 0, seq := .link .chipReset 24 s.pollFrame .load } := by
  obtain ⟨levels, hlen, hheard, e⟩ := transaction_eq 24 (s.sentinelFrame sentinelB) s (by omega) (by omega)
  refine ⟨levels, hlen, hheard, ?_⟩
  rw [State.resetTransaction, e, State.resetContinue]
  simp only [afterWindow_rst, h]
  rfl

/-- A poll that does not match and is not the last allowed (44_reset_seq R173, R175): the sequencer stands before the next. -/
def pollMissed (s : State) (levels : List Level) : State :=
  { afterWindow s s.pollFrame levels with
    pollcnt := s.pollcnt + 1, seq := .link .chipReset 24 s.pollFrame .load }

/-- A poll that does not match and is the last allowed (44_reset_seq R179). -/
def pollFailed (s : State) (phase : Bool) (levels : List Level) : State :=
  { afterWindow s s.pollFrame levels with
    pollcnt := s.pollcnt + 1, rst := .failed, seq := .idle, busy := false, outcome := .timeout
    result := timeoutReport phase (readback levels) }

/-- A poll that times out leaves what 44_reset_seq R179 and 60_exceptions R199 say. -/
theorem pollFailed_timedOut (s : State) (phase : Bool) {levels : List Level} (h : levels.length = 24) :
    resetTimedOut s (pollFailed s phase levels) phase (s.pollcnt + 1) levels := by
  refine ⟨rfl, rfl, rfl, rfl, (timeoutReport_fields _ _).1, (timeoutReport_fields _ _).2, rfl, ?_, rfl, rfl, ?_,
    fun r h1 h2 h3 => ?_⟩
  · exact afterWindow_acc_of_fits s (by omega) (by rw [h]; exact payloadFits_readWord _)
  · show (readWord _).getLsbD 0 = false
    simp [readWord]
  · show (restPins s s.pollFrame).ofRole r = _
    rw [restPins_ofRole]
    cases r <;> first | rfl | contradiction

/-- The poll of the disable phase (44_reset_seq R173, R179). -/
theorem pollA_eq (s : State) (h : s.rst = .disabling) : ∃ levels : List Level, levels.length = 24 ∧
    (answersKnown s 24 → heardLevels s 24 = levels) ∧
    s.resetTransaction s.pollFrame =
      if readback levels = sentinelA then
        { afterWindow s s.pollFrame levels with
          pollcnt := s.pollcnt + 1, rst := .confirmedDisabled
          seq := .link .chipReset 24 (s.sentinelFrame sentinelB) .load }
      else if pollsExhausted s.params.pollLimit (s.pollcnt + 1) then pollFailed s false levels
      else pollMissed s levels := by
  obtain ⟨levels, hlen, hheard, e⟩ := transaction_eq 24 s.pollFrame s (by omega) (by omega)
  refine ⟨levels, hlen, hheard, ?_⟩
  rw [State.resetTransaction, e, State.resetContinue]
  simp only [afterWindow_rst, h]
  have hl := lowValue_of_poll s hlen
  by_cases hm : readback levels = sentinelA
  · rw [if_pos hm, judgePoll_of_match _ _ (hl.trans hm)]; rfl
  · rw [if_neg hm]
    by_cases hx : pollsExhausted s.params.pollLimit (s.pollcnt + 1) = true
    · rw [if_pos hx, judgePoll_of_exhausted (u := afterWindow s s.pollFrame levels) _ _ (by rwa [hl]) hx, pollFailed, ← hl]; rfl
    · rw [if_neg hx, judgePoll_of_miss (u := afterWindow s s.pollFrame levels) _ _ (by rwa [hl]) hx]; rfl

/-- The poll of the enable phase (44_reset_seq R175, R179). -/
theorem pollB_eq (s : State) (h : s.rst = .enabling) : ∃ levels : List Level, levels.length = 24 ∧
    (answersKnown s 24 → heardLevels s 24 = levels) ∧
    s.resetTransaction s.pollFrame =
      if readback levels = sentinelB then
        { afterWindow s s.pollFrame levels with
          pollcnt := s.pollcnt + 1, rst := .confirmedEnabled, seq := .link .chipReset 24 s.pollFrame .done }
      else if pollsExhausted s.params.pollLimit (s.pollcnt + 1) then pollFailed s true levels
      else pollMissed s levels := by
  obtain ⟨levels, hlen, hheard, e⟩ := transaction_eq 24 s.pollFrame s (by omega) (by omega)
  refine ⟨levels, hlen, hheard, ?_⟩
  rw [State.resetTransaction, e, State.resetContinue]
  simp only [afterWindow_rst, h]
  have hl := lowValue_of_poll s hlen
  by_cases hm : readback levels = sentinelB
  · rw [if_pos hm, judgePoll_of_match _ _ (hl.trans hm)]; rfl
  · rw [if_neg hm]
    by_cases hx : pollsExhausted s.params.pollLimit (s.pollcnt + 1) = true
    · rw [if_pos hx, judgePoll_of_exhausted (u := afterWindow s s.pollFrame levels) _ _ (by rwa [hl]) hx, pollFailed, ← hl]; rfl
    · rw [if_neg hx, judgePoll_of_miss (u := afterWindow s s.pollFrame levels) _ _ (by rwa [hl]) hx]; rfl

/-- The enable phase from before a poll (44_reset_seq R175, R177, R179): Done, failed, or before the next poll. -/
theorem pollEnable_eq (s : State) (h : s.rst = .enabling) : ∃ levels : List Level, levels.length = 24 ∧
    (answersKnown s 24 → heardLevels s 24 = levels) ∧
    s.pollEnable =
      if readback levels = sentinelB then
        { afterWindow s s.pollFrame levels with
          pollcnt := s.pollcnt + 1, rst := .done, seq := .idle, busy := false, outcome := .ok, result := 0 }
      else if pollsExhausted s.params.pollLimit (s.pollcnt + 1) then pollFailed s true levels
      else pollMissed s levels := by
  obtain ⟨levels, hlen, hheard, e⟩ := pollB_eq s h
  refine ⟨levels, hlen, hheard, ?_⟩
  simp only [State.pollEnable, e]
  split
  · rfl
  · split
    · rfl
    · rw [if_neg]
      show (pollMissed s levels).rst ≠ _
      rw [show (pollMissed s levels).rst = s.rst from rfl, h]
      decide

/-- The disable phase from before a poll (44_reset_seq R173, R179): the enable phase, failed, or before the next poll. -/
theorem pollDisable_eq (s : State) (h : s.rst = .disabling) : ∃ levels : List Level, levels.length = 24 ∧
    (answersKnown s 24 → heardLevels s 24 = levels) ∧
    s.pollDisable =
      if readback levels = sentinelA then
        State.enablePhase { afterWindow s s.pollFrame levels with
          pollcnt := s.pollcnt + 1, rst := .confirmedDisabled
          seq := .link .chipReset 24 (s.sentinelFrame sentinelB) .load }
      else if pollsExhausted s.params.pollLimit (s.pollcnt + 1) then pollFailed s false levels
      else pollMissed s levels := by
  obtain ⟨levels, hlen, hheard, e⟩ := pollA_eq s h
  refine ⟨levels, hlen, hheard, ?_⟩
  simp only [State.pollDisable, e]
  split
  · rfl
  · split
    · rfl
    · rw [if_neg]
      show (pollMissed s levels).rst ≠ _
      rw [show (pollMissed s levels).rst = s.rst from rfl, h]
      decide

/-- The sentinel write of the enable phase, and the poll after it. -/
theorem enablePhase_eq (s : State) (h : s.rst = .confirmedDisabled) : ∃ levels : List Level, levels.length = 24 ∧
    (answersKnown s 24 → heardLevels s 24 = levels) ∧
    s.enablePhase = State.pollEnable
      { afterWindow s (s.sentinelFrame sentinelB) levels with
        rst := .enabling, pollcnt := 0, seq := .link .chipReset 24 s.pollFrame .load } := by
  obtain ⟨levels, hlen, hheard, e⟩ := writeB_eq s h
  exact ⟨levels, hlen, hheard, by rw [State.enablePhase, e]⟩

/-- The sentinel write of the disable phase, and the poll after it. -/
theorem disablePhase_eq (s : State) (h : s.rst = .idle) : ∃ levels : List Level, levels.length = 24 ∧
    (answersKnown s 24 → heardLevels s 24 = levels) ∧
    s.disablePhase = State.pollDisable
      { afterWindow s (s.sentinelFrame sentinelA) levels with
        rst := .disabling, pollcnt := 0, seq := .link .chipReset 24 s.pollFrame .load } := by
  obtain ⟨levels, hlen, hheard, e⟩ := writeA_eq s h
  exact ⟨levels, hlen, hheard, by rw [State.disablePhase, e]⟩

/-- What holds of a property of states that every transaction of CHIP_RESET and every move of its sequence keeps: every
execution keeps it. The claims about all executions of CHIP_RESET go through this. -/
theorem chipReset_keeps (P : State → Prop)
    (window : ∀ s out levels, levels.length = 24 → P s → P (afterWindow s out levels))
    (control : ∀ s rst pollcnt seq, P s → P { s with rst := rst, pollcnt := pollcnt, seq := seq })
    (ending : ∀ s rst pollcnt outcome result, P s →
      P { s with rst := rst, pollcnt := pollcnt, seq := .idle, busy := false, outcome := outcome, result := result })
    (s : State) (hs : P s) : ∀ t, execChipReset s = .next t → P t := by
  have hpe : ∀ s : State, s.rst = .enabling → P s → P s.pollEnable := by
    intro s h hs
    obtain ⟨levels, hlen, _, e⟩ := pollEnable_eq s h
    rw [e]
    split
    · exact ending _ .done _ .ok 0 (window s _ levels hlen hs)
    · split
      · exact ending _ .failed _ .timeout _ (window s _ levels hlen hs)
      · have := control _ s.rst (s.pollcnt + 1) (.link .chipReset 24 s.pollFrame .load)
          (window s s.pollFrame levels hlen hs)
        exact this
  have hep : ∀ s : State, s.rst = .confirmedDisabled → P s → P s.enablePhase := by
    intro s h hs
    obtain ⟨levels, hlen, _, e⟩ := enablePhase_eq s h
    rw [e]
    exact hpe _ rfl (control _ .enabling 0 _ (window s _ levels hlen hs))
  have hpd : ∀ s : State, s.rst = .disabling → P s → P s.pollDisable := by
    intro s h hs
    obtain ⟨levels, hlen, _, e⟩ := pollDisable_eq s h
    rw [e]
    split
    · exact hep _ rfl (control _ .confirmedDisabled _ _ (window s _ levels hlen hs))
    · split
      · exact ending _ .failed _ .timeout _ (window s _ levels hlen hs)
      · have := control _ s.rst (s.pollcnt + 1) (.link .chipReset 24 s.pollFrame .load)
          (window s s.pollFrame levels hlen hs)
        exact this
  have hdp : ∀ s : State, s.rst = .idle → P s → P s.disablePhase := by
    intro s h hs
    obtain ⟨levels, hlen, _, e⟩ := disablePhase_eq s h
    rw [e]
    exact hpd _ rfl (control _ .disabling 0 _ (window s _ levels hlen hs))
  have hstart : P s.beginReset.disablePhase := by
    refine hdp _ rfl ?_
    have := control s .idle s.pollcnt (.link .chipReset 24 (s.setRst .idle |>.sentinelFrame sentinelA) .load) hs
    exact this
  intro t ht
  unfold execChipReset at ht
  injection ht with ht
  rw [← ht]
  split
  · unfold State.resumeReset
    split
    · exact hdp s ‹_› hs
    · exact hpd s ‹_› hs
    · exact hep s ‹_› hs
    · exact hpe s ‹_› hs
    · exact hstart
    · exact hstart
    · exact hstart
  · exact hstart

/-- Where an execution of CHIP_RESET ends: with DLY 0, at IDLE with BUSY 0, or before a transaction of its own with BUSY as it was. -/
def resetStop (s t : State) : Prop := t.dly = 0 ∧
  ((t.seq = .idle ∧ t.busy = false ∧ (t.outcome = .ok ∧ t.rst = .done ∨ t.outcome = .timeout ∧ t.rst = .failed ∧
    t.params.pollLimit ≠ none)) ∨
  (∃ w, t.seq = .link .chipReset 24 w .load ∧ t.busy = s.busy ∧ t.outcome = s.outcome ∧ t.result = s.result))

theorem pollsExhausted_some {l : Option Nat} {n : Nat} (h : pollsExhausted l n = true) : l ≠ none := by
  rintro rfl
  cases h

/-- Every execution of CHIP_RESET ends so. -/
theorem chipReset_stops {s t : State} (h : execChipReset s = .next t) : resetStop s t := by
  have hpe : ∀ u : State, u.rst = .enabling → resetStop u u.pollEnable := by
    intro u hu
    obtain ⟨levels, _, _, e⟩ := pollEnable_eq u hu
    rw [e]
    by_cases hm : readback levels = sentinelB
    · rw [if_pos hm]; exact ⟨rfl, .inl ⟨rfl, rfl, .inl ⟨rfl, rfl⟩⟩⟩
    · rw [if_neg hm]
      by_cases hx : pollsExhausted u.params.pollLimit (u.pollcnt + 1) = true
      · rw [if_pos hx]; exact ⟨rfl, .inl ⟨rfl, rfl, .inr ⟨rfl, rfl, pollsExhausted_some hx⟩⟩⟩
      · rw [if_neg hx]; exact ⟨rfl, .inr ⟨_, rfl, rfl, rfl, rfl⟩⟩
  have hep : ∀ u : State, u.rst = .confirmedDisabled → resetStop u u.enablePhase := by
    intro u hu
    obtain ⟨levels, _, _, e⟩ := enablePhase_eq u hu
    rw [e]
    exact hpe { afterWindow u (u.sentinelFrame sentinelB) levels with
      rst := .enabling, pollcnt := 0, seq := .link .chipReset 24 u.pollFrame .load } rfl
  have hpd : ∀ u : State, u.rst = .disabling → resetStop u u.pollDisable := by
    intro u hu
    obtain ⟨levels, _, _, e⟩ := pollDisable_eq u hu
    rw [e]
    by_cases hm : readback levels = sentinelA
    · rw [if_pos hm]
      exact hep { afterWindow u u.pollFrame levels with
        pollcnt := u.pollcnt + 1, rst := .confirmedDisabled
        seq := .link .chipReset 24 (u.sentinelFrame sentinelB) .load } rfl
    · rw [if_neg hm]
      by_cases hx : pollsExhausted u.params.pollLimit (u.pollcnt + 1) = true
      · rw [if_pos hx]; exact ⟨rfl, .inl ⟨rfl, rfl, .inr ⟨rfl, rfl, pollsExhausted_some hx⟩⟩⟩
      · rw [if_neg hx]; exact ⟨rfl, .inr ⟨_, rfl, rfl, rfl, rfl⟩⟩
  have hdp : ∀ u : State, u.rst = .idle → resetStop u u.disablePhase := by
    intro u hu
    obtain ⟨levels, _, _, e⟩ := disablePhase_eq u hu
    rw [e]
    exact hpd { afterWindow u (u.sentinelFrame sentinelA) levels with
      rst := .disabling, pollcnt := 0, seq := .link .chipReset 24 u.pollFrame .load } rfl
  have hstart : resetStop s s.beginReset.disablePhase := hdp s.beginReset rfl
  unfold execChipReset at h
  injection h with h
  rw [← h]
  split
  · unfold State.resumeReset
    split
    · exact hdp s ‹_›
    · exact hpd s ‹_›
    · exact hep s ‹_›
    · exact hpe s ‹_›
    · exact hstart
    · exact hstart
    · exact hstart
  · exact hstart

end Sys2Proof.Machine
end

