-- ==== Sys2Proof/Laws/Decode.lean ====
section
/-! SUPPORT. The fields of a command word, and what the decoders can answer. -/

namespace Sys2Proof

open Sys2Proof.Machine

theorem getLsbD_cmdWord (op : BitVec 4) (a : BitVec 8) (d : Word) (i : Nat) : (cmdWord op a d).getLsbD i =
    (decide (i < 48) && ((decide (44 ≤ i) && op.getLsbD (i - 44)) || (decide (32 ≤ i) && a.getLsbD (i - 32))
      || d.getLsbD i)) := by
  simp only [cmdWord, BitVec.getLsbD_or, BitVec.getLsbD_shiftLeft, BitVec.getLsbD_setWidth]
  by_cases h : i < 48
  · have h1 : i - 44 < 48 := by omega
    have h2 : i - 32 < 48 := by omega
    by_cases h3 : i < 44 <;> by_cases h4 : i < 32 <;>
      simp [h, h1, h2, h3, h4, Nat.not_le_of_lt, Nat.le_of_not_lt]
  · simp [h]

theorem getLsbD_of_width {n : Nat} (v : BitVec n) {i : Nat} (h : n ≤ i) : v.getLsbD i = false :=
  BitVec.getLsbD_of_ge v i h

@[simp] theorem cmdOp_cmdWord (op : BitVec 4) (a : BitVec 8) (d : Word) : cmdOp (cmdWord op a d) = op := by
  apply BitVec.eq_of_getLsbD_eq
  intro i hi
  rw [cmdOp, BitVec.getLsbD_extractLsb', getLsbD_cmdWord, getLsbD_of_width a (by omega), getLsbD_of_width d (by omega)]
  have h1 : 44 + i < 48 := by omega
  simp [hi, h1]

@[simp] theorem cmdRsv_cmdWord (op : BitVec 4) (a : BitVec 8) (d : Word) : cmdRsv (cmdWord op a d) = 0 := by
  apply BitVec.eq_of_getLsbD_eq
  intro i hi
  rw [cmdRsv, BitVec.getLsbD_extractLsb', getLsbD_cmdWord, getLsbD_of_width a (by omega), getLsbD_of_width d (by omega)]
  have h1 : ¬ 44 ≤ 40 + i := by omega
  simp [h1]

@[simp] theorem cmdArg8_cmdWord (op : BitVec 4) (a : BitVec 8) (d : Word) : cmdArg8 (cmdWord op a d) = a := by
  apply BitVec.eq_of_getLsbD_eq
  intro i hi
  rw [cmdArg8, BitVec.getLsbD_extractLsb', getLsbD_cmdWord, getLsbD_of_width d (by omega)]
  have h1 : ¬ 44 ≤ 32 + i := by omega
  have h2 : 32 + i < 48 := by omega
  simp [h1, h2, hi]

@[simp] theorem cmdData_cmdWord (op : BitVec 4) (a : BitVec 8) (d : Word) : cmdData (cmdWord op a d) = d := by
  apply BitVec.eq_of_getLsbD_eq
  intro i hi
  rw [cmdData, BitVec.getLsbD_extractLsb', getLsbD_cmdWord, Nat.zero_add]
  have h1 : ¬ 44 ≤ i := by omega
  have h2 : ¬ 32 ≤ i := by omega
  have h3 : i < 48 := by omega
  simp [h1, h2, h3, hi]

/-- A command word whose `RSV` is 0 is made of its three other fields (30_encoding R81). -/
theorem cmdWord_fields {w : CmdWord} (h : cmdRsv w = 0) : cmdWord (cmdOp w) (cmdArg8 w) (cmdData w) = w := by
  apply BitVec.eq_of_getLsbD_eq
  intro i hi
  have hr : ∀ j, j < 4 → w.getLsbD (40 + j) = false := by
    intro j hj
    have := congrArg (fun v => BitVec.getLsbD v j) h
    simpa [cmdRsv, hj] using this
  rw [getLsbD_cmdWord, cmdOp, cmdArg8, cmdData, BitVec.getLsbD_extractLsb', BitVec.getLsbD_extractLsb',
    BitVec.getLsbD_extractLsb']
  have h44 : 44 + (i - 44) = i ∨ i < 44 := by omega
  have h32 : 32 + (i - 32) = i ∨ i < 32 := by omega
  by_cases h1 : i < 32
  · have a1 : ¬ 44 ≤ i := by omega
    have a2 : ¬ 32 ≤ i := by omega
    simp [hi, h1, a1, a2]
  · have e1 : 32 + (i - 32) = i := by omega
    by_cases h2 : i < 40
    · have a1 : ¬ 44 ≤ i := by omega
      have a2 : i - 32 < 8 := by omega
      simp [hi, h1, a1, a2, e1, Nat.le_of_not_lt h1]
    · have a2 : ¬ i - 32 < 8 := by omega
      by_cases h3 : i < 44
      · have a1 : ¬ 44 ≤ i := by omega
        have := hr (i - 40) (by omega)
        have e : 40 + (i - 40) = i := by omega
        rw [e] at this
        simp [h1, a1, a2, this]
      · have e : 44 + (i - 44) = i := by omega
        have a1 : i - 44 < 4 := by omega
        simp [hi, h1, a1, a2, e, Nat.le_of_not_lt h3]

theorem withoutData_eq_instr {d : Word} {i j : Instr} (h : withoutData d i = .instr j) : d = 0 ∧ j = i := by
  unfold withoutData at h
  split at h
  · exact ⟨‹_›, by injection h with h; exact h.symm⟩
  · cases h

theorem withoutOperands_eq_instr {a : BitVec 8} {d : Word} {i j : Instr}
    (h : withoutOperands a d i = .instr j) : a = 0 ∧ d = 0 ∧ j = i := by
  unfold withoutOperands at h
  split at h
  · exact ⟨‹_›, withoutData_eq_instr h⟩
  · cases h

/-- Everything the command decoder can answer (30_encoding R83). -/
theorem decodeCommand_cases {w : CmdWord} {i : Instr} (h : decodeCommand w = .instr i) : cmdRsv w = 0 ∧
    ((cmdOp w = 1 ∧ cmdArg8 w = 0 ∧ cmdData w = 0 ∧ i = .gpioInit) ∨
     (cmdOp w = 2 ∧ cmdArg8 w = 0 ∧ cmdData w = 0 ∧ i = .powerUp) ∨
     (cmdOp w = 3 ∧ i = .transact (cmdArg8 w) (cmdData w)) ∨
     (cmdOp w = 4 ∧ cmdData w = 0 ∧ i = .regRead (cmdArg8 w)) ∨
     (cmdOp w = 5 ∧ cmdData w >>> 16 = 0 ∧ i = .regWrite (cmdArg8 w) ((cmdData w).extractLsb' 0 16)) ∨
     (cmdOp w = 6 ∧ cmdArg8 w = 0 ∧ cmdData w = 0 ∧ i = .status) ∨
     (cmdOp w = 7 ∧ cmdData w = 0 ∧ i = .strobe (cmdArg8 w)) ∨
     (cmdOp w = 8 ∧ cmdArg8 w = 0 ∧ cmdData w = 0 ∧ i = .chipReset)) := by
  have op : ∀ k : Nat, (hk : k < 16) → (cmdOp w).toNat = k → cmdOp w = BitVec.ofNat 4 k := by
    intro k hk e
    apply BitVec.eq_of_toNat_eq
    rw [e, BitVec.toNat_ofNat, Nat.mod_eq_of_lt hk]
  unfold decodeCommand at h
  split at h
  · cases h
  · rename_i hr
    refine ⟨Classical.byContradiction hr, ?_⟩
    split at h <;> rename_i e
    · obtain ⟨a, b, c⟩ := withoutOperands_eq_instr h; exact .inl ⟨op _ (by decide) e, a, b, c⟩
    · obtain ⟨a, b, c⟩ := withoutOperands_eq_instr h; exact .inr (.inl ⟨op _ (by decide) e, a, b, c⟩)
    · injection h with h; exact .inr (.inr (.inl ⟨op _ (by decide) e, h.symm⟩))
    · obtain ⟨b, c⟩ := withoutData_eq_instr h; exact .inr (.inr (.inr (.inl ⟨op _ (by decide) e, b, c⟩)))
    · obtain ⟨b, c⟩ := withoutData_eq_instr h; exact .inr (.inr (.inr (.inr (.inl ⟨op _ (by decide) e, b, c⟩))))
    · obtain ⟨a, b, c⟩ := withoutOperands_eq_instr h
      exact .inr (.inr (.inr (.inr (.inr (.inl ⟨op _ (by decide) e, a, b, c⟩)))))
    · obtain ⟨b, c⟩ := withoutData_eq_instr h
      exact .inr (.inr (.inr (.inr (.inr (.inr (.inl ⟨op _ (by decide) e, b, c⟩))))))
    · obtain ⟨a, b, c⟩ := withoutOperands_eq_instr h
      exact .inr (.inr (.inr (.inr (.inr (.inr (.inr ⟨op _ (by decide) e, a, b, c⟩))))))
    · cases h

/-- No command word decodes to a wire frame. -/
theorem decodeCommand_isCommand {w : CmdWord} {i : Instr} (h : decodeCommand w = .instr i) : i.isCommand = true := by
  rcases (decodeCommand_cases h).2 with h | h | h | h | h | h | h | h <;> simp [h, Instr.isCommand]

/-- The frame decoder reads frames only, of the frame's length. -/
theorem decodeFrame_cases {len : Nat} {out : Word} {i : Instr} (h : decodeFrame len out = .instr i) :
    (len = 8 ∧ ∃ a, i = .f8Select a) ∨ (len = 24 ∧ ((∃ a, i = .f24Read a) ∨ ∃ a d, i = .f24Write a d)) := by
  unfold decodeFrame at h
  split at h
  · unfold decodeF8 at h
    split at h
    · cases h
    · injection h with h; exact .inl ⟨rfl, _, h.symm⟩
  · unfold decodeF24 at h
    split at h
    · split at h
      · injection h with h; exact .inr ⟨rfl, .inl ⟨_, h.symm⟩⟩
      · cases h
    · injection h with h; exact .inr ⟨rfl, .inr ⟨_, _, h.symm⟩⟩
  · cases h

end Sys2Proof
end

