-- ==== Sys2Proof/Laws/GpioInit.lean ====
section
/-! SUPPORT. GPIO_INIT: an arranged list is a permutation, and what the three steps leave. -/

namespace Sys2Proof.Machine

theorem insertAt_perm {α : Type} (x : α) (n : Nat) (l : List α) : List.Perm (insertAt x n l) (x :: l) := by
  induction n generalizing l with
  | zero => exact List.Perm.refl _
  | succ n ih =>
    cases l with
    | nil => exact List.Perm.refl _
    | cons y l => exact ((ih l).cons y).trans (List.Perm.swap x y l)

/-- Every arrangement holds each element exactly once (40_gpio_init R114: any order inside a step). -/
theorem arrange_perm {α : Type} (pick : Nat → Nat) (l : List α) : List.Perm (arrange pick l) l := by
  induction l with
  | nil => exact List.Perm.refl _
  | cons x l ih => exact (insertAt_perm x _ _).trans (ih.cons x)

@[simp] theorem Pins.all_mapAll (p : Pins) (f : Option Role → PinCtl → PinCtl) : (p.mapAll f).all = p.all := by
  simp [Pins.all]

theorem Pins.all_length (p : Pins) : p.all.length = 10 + p.extras.length := by
  simp [Pins.all, Role.all]
  omega

/-- The pins GPIO_INIT leaves (40_gpio_init R111 to R113). -/
def initialisedPins (p : Pins) : Pins :=
  p.mapAll fun r c => lowOutput r { c with func := funcGpio, dir := initialDir r }

theorem gpioSteps_pins (s : State) : s.gpioFunc.gpioDir.gpioLow.pins = initialisedPins s.pins := by
  apply Pins.ext_ofRole
  · intro r; simp [State.gpioFunc, State.gpioDir, State.gpioLow, initialisedPins]
  · simp [State.gpioFunc, State.gpioDir, State.gpioLow, initialisedPins]

/-- GPIO_INIT changes the pins and the trace, and nothing else before its end (40_gpio_init R115). -/
theorem gpioSteps_eq (s : State) : ∃ f d w : List Event,
    List.Perm f (s.pins.all.map fun p => .f p funcGpio) ∧
    List.Perm d (s.pins.all.map fun p => .dirw p (initialDir (pinRole p))) ∧
    List.Perm w ((Role.all.filter Role.isOutput).map fun r => .w r false) ∧
    s.gpioFunc.gpioDir.gpioLow =
      { s with pins := initialisedPins s.pins, trace := s.trace ++ f ++ d ++ w } := by
  refine ⟨arrange (Config.storeOrder s.history) (s.pins.all.map fun p => .f p funcGpio),
    arrange (Config.storeOrder s.gpioFunc.history) (s.gpioFunc.pins.all.map fun p => .dirw p (initialDir (pinRole p))),
    arrange (Config.storeOrder s.gpioFunc.gpioDir.history) ((Role.all.filter Role.isOutput).map fun r => .w r false),
    arrange_perm _ _, ?_, arrange_perm _ _, ?_⟩
  · have : s.gpioFunc.pins.all = s.pins.all := Pins.all_mapAll _ _
    rw [← this]
    exact arrange_perm _ _
  · rw [← gpioSteps_pins s]
    rfl

theorem ofRole_initialisedPins (p : Pins) (r : Role) : (initialisedPins p).ofRole r =
    { p.ofRole r with
      func := funcGpio
      dir := initialDir (some r)
      out := if r.isOutput then false else (p.ofRole r).out } := by
  simp only [initialisedPins, Pins.ofRole_mapAll, lowOutput]
  split <;> simp_all

theorem pinsInitialised_initialisedPins (p : Pins) : pinsInitialised (initialisedPins p) := by
  refine ⟨fun r => by simp [ofRole_initialisedPins], fun c hc => ?_⟩
  simp only [initialisedPins, Pins.extras_mapAll, List.mem_map] at hc
  obtain ⟨c', _, rfl⟩ := hc
  exact ⟨rfl, rfl⟩

end Sys2Proof.Machine
end

