-- ==== Sys2Proof/Laws/Exec.lean ====
section
/-! SUPPORT. What one execution of each instruction can be. -/

namespace Sys2Proof.Machine

/-- The operations and frames of one transaction: the state of its window, but for the result, the outcome, BUSY, SEQ and
(for an output word wider than the frame, 93 U3) the accumulator (00_scope R3, 43_register_access R164). -/
theorem oneFrame_eq {i : Instr} {s t : State} (hi : i.isOneFrame = true) (h : exec i s = .next t) :
    ∃ (out : Word) (levels : List Level) (acc : Word) (seq : Seq) (result : Word) (outcome : OutcomeCode) (busy : Bool),
      1 ≤ levels.length ∧ levels.length ≤ 32 ∧
      (i.isCommand = true → seq = .idle ∧ outcome = .ok ∧ busy = false) ∧
      (i.isCommand = false → seq = seqAfterFrame s.seq ∧ result = s.result ∧ outcome = s.outcome ∧ busy = s.busy) ∧
      t = { afterWindow s out levels with
            acc := acc, seq := seq, result := result, outcome := outcome, busy := busy } := by
  cases i with
  | gpioInit => cases hi
  | powerUp => cases hi
  | chipReset => cases hi
  | transact len out =>
    simp only [exec, execTransact] at h
    split at h
    · cases h
    · split at h
      · cases h
      · obtain ⟨levels, hlen, _, e⟩ := transaction_eq len.toNat out s (by omega) (by omega)
        obtain ⟨a, _, ea⟩ := returnWord_eq len.toNat out (s.transaction len.toNat out) (by omega)
        injection h with h
        rw [State.endTransact, ea, e] at h
        exact ⟨out, levels, a, .idle, a, .ok, false, by omega, by omega, fun _ => ⟨rfl, rfl, rfl⟩, nofun, h.symm⟩
  | regRead addr =>
    simp only [exec, execRegRead] at h
    split at h
    · obtain ⟨levels, hlen, _, e⟩ := transaction_eq 24 (readWord addr) s (by omega) (by omega)
      injection h with h
      rw [e] at h
      exact ⟨_, levels, _, _, _, _, _, by omega, by omega, fun _ => ⟨rfl, rfl, rfl⟩, nofun, h.symm⟩
    · cases h
  | regWrite addr value =>
    simp only [exec, execRegWrite] at h
    split at h
    · obtain ⟨levels, hlen, _, e⟩ := transaction_eq 24 (writeWord addr value) s (by omega) (by omega)
      injection h with h
      rw [e] at h
      exact ⟨_, levels, _, _, _, _, _, by omega, by omega, fun _ => ⟨rfl, rfl, rfl⟩, nofun, h.symm⟩
    · cases h
  | status =>
    obtain ⟨levels, hlen, _, e⟩ := transaction_eq 8 statusWord s (by omega) (by omega)
    simp only [exec, execStatus, e] at h
    injection h with h
    exact ⟨_, levels, _, _, _, _, _, by omega, by omega, fun _ => ⟨rfl, rfl, rfl⟩, nofun, h.symm⟩
  | strobe addr =>
    simp only [exec, execStrobe] at h
    split at h
    · obtain ⟨levels, hlen, _, e⟩ := transaction_eq 8 (strobeWord addr) s (by omega) (by omega)
      injection h with h
      rw [e] at h
      exact ⟨_, levels, _, _, _, _, _, by omega, by omega, fun _ => ⟨rfl, rfl, rfl⟩, nofun, h.symm⟩
    · cases h
  | f8Select addr =>
    obtain ⟨levels, hlen, _, e⟩ := transaction_eq 8 (strobeWord (addrField addr)) s (by omega) (by omega)
    simp only [exec, execF8Select, State.sendFrame, e] at h
    injection h with h
    exact ⟨_, levels, _, _, _, _, _, by omega, by omega, nofun, fun _ => ⟨rfl, rfl, rfl, rfl⟩, h.symm⟩
  | f24Read addr =>
    obtain ⟨levels, hlen, _, e⟩ := transaction_eq 24 (readWord (addrField addr)) s (by omega) (by omega)
    simp only [exec, execF24Read, State.sendFrame, e] at h
    injection h with h
    exact ⟨_, levels, _, _, _, _, _, by omega, by omega, nofun, fun _ => ⟨rfl, rfl, rfl, rfl⟩, h.symm⟩
  | f24Write addr data =>
    obtain ⟨levels, hlen, _, e⟩ := transaction_eq 24 (writeWord (addrField addr) data) s (by omega) (by omega)
    simp only [exec, execF24Write, State.sendFrame, e] at h
    injection h with h
    exact ⟨_, levels, _, _, _, _, _, by omega, by omega, nofun, fun _ => ⟨rfl, rfl, rfl, rfl⟩, h.symm⟩

/-- The pins POWER_UP leaves (41_power_seq R121 to R125). -/
def poweredPins (s : State) : Pins :=
  (((((((((s.pins.setFunc .atest0 funcGpio).setDir .atest0 .input).setPull .atest0 .none).setFunc .atest1 funcGpio).setDir
    .atest1 .input).setPull .atest1 .none).setOut .en1v8 (s.params.active .en1v8)).setOut .csn (s.params.idle .csn)).setOut
    .en3v3 (s.params.active .en3v3))

/-- The ten events of POWER_UP (41_power_seq R120, R126). -/
def powerEvents (p : Params) : List Event :=
  [.f (.role .atest0) funcGpio, .dirw (.role .atest0) .input, .p (.role .atest0) .none,
   .f (.role .atest1) funcGpio, .dirw (.role .atest1) .input, .p (.role .atest1) .none,
   .w .en1v8 (p.active .en1v8), .d p.tRail, .w .csn (p.idle .csn), .w .en3v3 (p.active .en3v3)]

/-- POWER_UP changes the pins, the trace and DLY, and nothing else before its end (41_power_seq R127). -/
theorem raiseRails_eq (s : State) : s.raiseRails =
    { s with pins := poweredPins s, dly := 0, trace := s.trace ++ powerEvents s.params } := by
  simp only [State.raiseRails, State.floatPin, State.assertPin, State.deassertPin, State.delay, State.startDelay,
    State.endDelay, State.drive, State.setFunc, State.setDir, State.setPull, poweredPins, powerEvents, List.append_assoc,
    List.cons_append, List.nil_append]

/-- What one execution of any instruction can be, in the fields the agents outside and the parameters have: the frame that
all instructions share. -/
theorem exec_keeps_params {i : Instr} {s t : State} (h : exec i s = .next t) :
    t.params = s.params ∧ t.cmd = s.cmd ∧ t.host = s.host ∧ t.past = s.past := by
  by_cases hi : i.isOneFrame = true
  · obtain ⟨out, levels, acc, seq, result, outcome, busy, _, _, _, _, rfl⟩ := oneFrame_eq hi h
    exact ⟨rfl, rfl, rfl, rfl⟩
  · cases i <;> first | exact absurd rfl hi | skip
    · injection h with h
      rw [← h]
      exact ⟨rfl, rfl, rfl, rfl⟩
    · injection h with h
      rw [← h, raiseRails_eq]
      exact ⟨rfl, rfl, rfl, rfl⟩
    · exact chipReset_keeps (fun u => u.params = s.params ∧ u.cmd = s.cmd ∧ u.host = s.host ∧ u.past = s.past)
        (fun _ _ _ _ hu => hu) (fun _ _ _ _ hu => hu) (fun _ _ _ _ _ hu => hu) s ⟨rfl, rfl, rfl, rfl⟩ t h

end Sys2Proof.Machine
end

