-- ==== Sys2Proof/Laws/PerInstr.lean ====
section
/-! SUPPORT. The family RowMatch: every instruction's word matches its row of spec/opcode_table.json (30_encoding R83). -/

namespace Sys2Proof.Laws.RowMatch

open Sys2Proof

/-- `w & mask == match` for the word of the instruction (30_encoding R83, R88, R89). -/
def Statement (i : Instr) : Prop := encode i &&& i.row.2 = i.row.1

theorem gpioInit : Statement .gpioInit := by unfold Statement; decide
theorem powerUp : Statement .powerUp := by unfold Statement; decide
theorem transact (len : BitVec 8) (out : Word) : Statement (.transact len out) := by
  unfold Statement
  apply BitVec.eq_of_getLsbD_eq
  intro i hi
  simp only [encode, Instr.row, BitVec.getLsbD_and, getLsbD_cmdWord]
  interval_cases i <;> simp
theorem regRead (addr : BitVec 8) : Statement (.regRead addr) := by
  unfold Statement
  apply BitVec.eq_of_getLsbD_eq
  intro i hi
  simp only [encode, Instr.row, BitVec.getLsbD_and, getLsbD_cmdWord]
  interval_cases i <;> simp
theorem regWrite (addr : BitVec 8) (value : Value) : Statement (.regWrite addr value) := by
  unfold Statement
  apply BitVec.eq_of_getLsbD_eq
  intro i hi
  simp only [encode, Instr.row, BitVec.getLsbD_and, getLsbD_cmdWord, BitVec.getLsbD_setWidth]
  interval_cases i <;> simp
theorem status : Statement .status := by unfold Statement; decide
theorem strobe (addr : BitVec 8) : Statement (.strobe addr) := by
  unfold Statement
  apply BitVec.eq_of_getLsbD_eq
  intro i hi
  simp only [encode, Instr.row, BitVec.getLsbD_and, getLsbD_cmdWord]
  interval_cases i <;> simp
theorem chipReset : Statement .chipReset := by unfold Statement; decide
theorem f8Select (addr : Addr) : Statement (.f8Select addr) := by
  unfold Statement; revert addr; decide
theorem f24Read (addr : Addr) : Statement (.f24Read addr) := by
  unfold Statement; revert addr; decide
theorem f24Write (addr : Addr) (data : Value) : Statement (.f24Write addr data) := by
  unfold Statement
  apply BitVec.eq_of_getLsbD_eq
  intro i hi
  simp only [encode, Instr.row, frame24, BitVec.getLsbD_and, BitVec.getLsbD_or, BitVec.getLsbD_shiftLeft,
    BitVec.getLsbD_setWidth]
  interval_cases i <;> simp
end Sys2Proof.Laws.RowMatch
end

