-- ==== Sys2Proof/Laws/Sequencer.lean ====
section
/-! SUPPORT. The sequencer one primitive at a time: how its steps compose, and how it passes a delay. -/

namespace Sys2Proof.Machine

theorem ticks_add (m n : Nat) (s : State) : s.ticks (m + n) = (s.ticks m).ticks n := by
  induction m generalizing s with
  | zero => rw [Nat.zero_add]; rfl
  | succ m ih => rw [Nat.succ_add]; exact ih s.tick

/-- While the delay timer runs it counts down, whatever the operation (10_state R26). -/
theorem tick_of_dly {s : State} (h : s.dly ≠ 0) (hs : s.seq ≠ .idle) : s.tick = s.countDown := by
  unfold State.tick
  split
  · exact absurd ‹_› hs
  all_goals rw [if_neg h]

theorem passDelay_of_running {s : State} (h : s.dly ≠ 0) : s.passDelay = s := by
  rw [State.passDelay, if_neg h]; rfl

theorem passDelay_of_over {s : State} (h : s.dly = 0) : s.passDelay = s.goTo (afterDelay s.seq) := by
  rw [State.passDelay, if_pos h]

/-- The delay timer runs out: after as many steps as it holds, DLY is 0, SEQ is past the delay, and nothing else has changed
(10_state R26, R45). -/
theorem ticks_delay (n : Nat) : ∀ s : State, s.dly = n + 1 → s.seq ≠ .idle →
    s.ticks (n + 1) = s.endDelay.goTo (afterDelay s.seq) := by
  induction n with
  | zero =>
    intro s h hs
    show s.tick = _
    rw [tick_of_dly (by omega) hs, State.countDown, passDelay_of_over (by simp [h]), h]
    rfl
  | succ n ih =>
    intro s h hs
    show s.tick.ticks (n + 1) = _
    have e : s.tick = s.setDly (n + 1) := by
      rw [tick_of_dly (by omega) hs, State.countDown, h]
      exact passDelay_of_running (Nat.succ_ne_zero n)
    rw [e]
    exact ih _ rfl hs

theorem tick_link {s : State} {c : Caller} {len : Nat} {out : Word} {ph : LinkPhase}
    (hs : s.seq = .link c len out ph) (hd : s.dly = 0) : s.tick = s.linkTick c len out ph := by
  unfold State.tick
  rw [hs]
  simp only [hd, if_true]

theorem tick_gpio {s : State} {ph : GpioPhase} (hs : s.seq = .gpioInit ph) (hd : s.dly = 0) : s.tick = s.gpioTick ph := by
  unfold State.tick
  rw [hs]
  simp only [hd, if_true]

theorem tick_power {s : State} {ph : PowerPhase} (hs : s.seq = .powerUp ph) (hd : s.dly = 0) : s.tick = s.powerTick ph := by
  unfold State.tick
  rw [hs]
  simp only [hd, if_true]

/-! A move of the sequencer position commutes with every operation of a transaction. -/

theorem goTo_goTo (q q' : Seq) (s : State) : (s.goTo q).goTo q' = s.goTo q' := rfl
theorem drive_goTo (q : Seq) (r : Role) (l : Level) (s : State) : (s.goTo q).drive r l = (s.drive r l).goTo q := rfl
theorem assertPin_goTo (q : Seq) (r : Role) (s : State) : (s.goTo q).assertPin r = (s.assertPin r).goTo q := rfl
theorem deassertPin_goTo (q : Seq) (r : Role) (s : State) : (s.goTo q).deassertPin r = (s.deassertPin r).goTo q := rfl
theorem setFunc_goTo (q : Seq) (r : Role) (v : Nat) (s : State) : (s.goTo q).setFunc r v = (s.setFunc r v).goTo q := rfl
theorem setDir_goTo (q : Seq) (r : Role) (d : Dir) (s : State) : (s.goTo q).setDir r d = (s.setDir r d).goTo q := rfl
theorem setPull_goTo (q : Seq) (r : Role) (m : Pull) (s : State) : (s.goTo q).setPull r m = (s.setPull r m).goTo q := rfl
theorem startDelay_goTo (q : Seq) (n : Nat) (s : State) : (s.goTo q).startDelay n = (s.startDelay n).goTo q := rfl
theorem endDelay_goTo (q : Seq) (s : State) : (s.goTo q).endDelay = s.endDelay.goTo q := rfl
theorem delay_goTo (q : Seq) (n : Nat) (s : State) : (s.goTo q).delay n = (s.delay n).goTo q := rfl
theorem sampleInto_goTo (q : Seq) (n : Nat) (s : State) : (s.goTo q).sampleInto n = (s.sampleInto n).goTo q := rfl
theorem setIndex_goTo (q : Seq) (n : Nat) (s : State) : (s.goTo q).setIndex n = (s.setIndex n).goTo q := rfl
theorem loadAcc_goTo (q : Seq) (n : Nat) (w : Word) (s : State) : (s.goTo q).loadAcc n w = (s.loadAcc n w).goTo q := rfl

theorem shiftBit_goTo (q : Seq) (n : Nat) (s : State) : (s.goTo q).shiftBit n = (s.shiftBit n).goTo q := by
  simp only [State.shiftBit, setIndex_goTo, drive_goTo, sampleInto_goTo, State.delay, startDelay_goTo, endDelay_goTo]
  rfl

theorem shiftBits_goTo (q : Seq) (n : Nat) : ∀ s : State, (s.goTo q).shiftBits n = (s.shiftBits n).goTo q := by
  induction n with
  | zero => intro s; rfl
  | succ n ih => intro s; rw [State.shiftBits, State.shiftBits, ← ih, shiftBit_goTo]

theorem shiftBits_params (n : Nat) : ∀ s : State, (s.shiftBits n).params = s.params := by
  induction n with
  | zero => intro s; rfl
  | succ n ih => intro s; rw [State.shiftBits, ih]; rfl

theorem shiftBits_dly (n : Nat) : ∀ s : State, s.dly = 0 → (s.shiftBits n).dly = 0 := by
  induction n with
  | zero => intro s h; exact h
  | succ n ih => intro s _; exact ih _ rfl

theorem transaction_goTo (len : Nat) (out : Word) (q : Seq) (s : State) :
    (s.goTo q).transaction len out = (s.transaction len out).goTo q := by
  simp only [State.transaction, State.delay, loadAcc_goTo, assertPin_goTo, shiftBits_goTo, startDelay_goTo, endDelay_goTo,
    deassertPin_goTo]
  rfl

/-! Runs of the sequencer: some number of its steps leads from one state to another. -/

/-- Some number of steps of the sequencer leads from `s` to `t`. -/
def Reaches (s t : State) : Prop := ∃ n, s.ticks n = t

theorem Reaches.refl (s : State) : Reaches s s := ⟨0, rfl⟩

theorem Reaches.trans {s t u : State} (h : Reaches s t) (h' : Reaches t u) : Reaches s u := by
  obtain ⟨m, rfl⟩ := h
  obtain ⟨n, rfl⟩ := h'
  exact ⟨m + n, ticks_add m n s⟩

/-- A delay, once entered, is passed as a whole (10_state R26, R45). -/
theorem Reaches.delay (t : Nat) {s : State} (h : s.seq ≠ .idle) :
    Reaches (s.enterDelay t) ((s.delay t).goTo (afterDelay s.seq)) := by
  unfold State.enterDelay
  cases t with
  | zero => exact ⟨0, passDelay_of_over rfl⟩
  | succ n =>
    rw [passDelay_of_running (by simp)]
    exact ⟨n + 1, ticks_delay n _ rfl h⟩

theorem Reaches.link {s : State} (c : Caller) (len : Nat) (out : Word) (ph : LinkPhase) (h : s.dly = 0) :
    Reaches (s.goTo (.link c len out ph)) ((s.goTo (.link c len out ph)).linkTick c len out ph) :=
  ⟨1, tick_link (s := s.goTo _) rfl h⟩

theorem Reaches.power {s : State} (ph : PowerPhase) (h : s.dly = 0) :
    Reaches (s.goTo (.powerUp ph)) ((s.goTo (.powerUp ph)).powerTick ph) :=
  ⟨1, tick_power (s := s.goTo _) rfl h⟩

/-- The seven micro-phases of one bit (42_transport R144) are one turn of the bit loop (R132). -/
theorem reaches_bit (c : Caller) (len : Nat) (out : Word) (n : Nat) (s : State) (hn : n < 32) (hd : s.dly = 0) :
    Reaches ((s.setIndex n).goTo (.link c len out .drive))
      (if n = 0 then (s.shiftBit n).goTo (.link c len out .trailWait)
       else ((s.shiftBit n).setIndex (n - 1)).goTo (.link c len out .drive)) := by
  have hb : (BitVec.ofNat 6 n).toNat = n := by simp; omega
  have hi : (s.setIndex n).bitidx = BitVec.ofNat 6 n := rfl
  refine Reaches.trans (Reaches.link c len out .drive hd) ?_
  simp only [State.linkTick, drive_goTo, goTo_goTo, State.goTo_acc, State.goTo_bitidx, hi, hb]
  refine Reaches.trans (Reaches.link c len out .setupWait hd) ?_
  refine Reaches.trans (Reaches.delay _ (by simp)) ?_
  simp only [delay_goTo, goTo_goTo, State.goTo_params, State.goTo_seq, afterDelay, State.drive_params]
  refine Reaches.trans (Reaches.link c len out .rise rfl) ?_
  simp only [State.linkTick, drive_goTo, goTo_goTo]
  refine Reaches.trans (Reaches.link c len out .sample rfl) ?_
  simp only [State.linkTick, sampleInto_goTo, goTo_goTo, State.goTo_bitidx, State.drive_bitidx, State.delay_bitidx, hi, hb]
  refine Reaches.trans (Reaches.link c len out .holdWait rfl) ?_
  refine Reaches.trans (Reaches.delay _ (by simp)) ?_
  simp only [delay_goTo, goTo_goTo, State.goTo_params, State.goTo_seq, afterDelay]
  refine Reaches.trans (Reaches.link c len out .fall rfl) ?_
  simp only [State.linkTick, drive_goTo, goTo_goTo, setIndex_goTo, State.goTo_bitidx, State.drive_bitidx,
    State.delay_bitidx, State.sampleInto_bitidx, hi, hb]
  refine ⟨0, ?_⟩
  by_cases h0 : n = 0
  · rw [if_pos h0, if_pos h0]; rfl
  · rw [if_neg h0, if_neg h0]; rfl

/-- The bit loop (42_transport R132, R144). -/
theorem reaches_bits (c : Caller) (len : Nat) (out : Word) : ∀ (n : Nat) (s : State), n < 32 → s.dly = 0 →
    Reaches ((s.setIndex n).goTo (.link c len out .drive))
      ((s.shiftBits (n + 1)).goTo (.link c len out .trailWait)) := by
  intro n
  induction n with
  | zero => intro s hn hd; exact reaches_bit c len out 0 s hn hd
  | succ n ih =>
    intro s hn hd
    have h := reaches_bit c len out (n + 1) s hn hd
    rw [if_neg (by omega)] at h
    exact h.trans (ih (s.shiftBit (n + 1)) (by omega) rfl)

/-- The micro-phases of 42_transport R144 from `T_LOAD` to `T_DONE` are one transaction (R130). -/
theorem reaches_transaction (c : Caller) (len : Nat) (out : Word) (s : State) (h1 : 1 ≤ len) (h32 : len ≤ 32)
    (hd : s.dly = 0) :
    Reaches (s.goTo (.link c len out .load)) ((s.transaction len out).goTo (.link c len out .done)) := by
  obtain ⟨n, rfl⟩ : ∃ n, len = n + 1 := ⟨len - 1, by omega⟩
  refine Reaches.trans (Reaches.link c (n + 1) out .load hd) ?_
  simp only [State.linkTick, loadAcc_goTo, goTo_goTo]
  refine Reaches.trans (Reaches.link c (n + 1) out .select hd) ?_
  simp only [State.linkTick, assertPin_goTo, goTo_goTo]
  refine (reaches_bits c (n + 1) out n ((s.loadAcc (n + 1) out).assertPin .csn) (by omega) hd).trans ?_
  refine Reaches.trans (Reaches.link c (n + 1) out .trailWait (shiftBits_dly _ _ hd)) ?_
  refine Reaches.trans (Reaches.delay _ (by simp)) ?_
  simp only [delay_goTo, goTo_goTo, State.goTo_params, State.goTo_seq, afterDelay, shiftBits_params]
  refine Reaches.trans (Reaches.link c (n + 1) out .deselect rfl) ⟨0, ?_⟩
  simp only [State.linkTick, deassertPin_goTo, goTo_goTo, State.transaction, State.delay]
  rfl

end Sys2Proof.Machine
end

