-- ==== Sys2Proof/Laws/Step.lean ====
section
/-! SUPPORT. What one step can be: one inversion lemma, `step_cases`. -/

namespace Sys2Proof.Machine

/-- The state in which a host's word has been accepted (10_state R27). -/
def accepted (s : State) (w : CmdWord) (rest : List CmdWord) : State :=
  { s with host := rest, cmd := w, busy := true }

theorem startCommand_next {u t : State}
    (h : (match u.startCommand with
      | .run i v => exec i v
      | .settled v => .next v
      | .refuse r => .refused r) = Host.Outcome.next (φ := Fault) (ρ := Refusal) t) :
    (∃ i, decodeCommand u.cmd = .instr i ∧ exec i u = .next t) ∨
    ((∃ why, decodeCommand u.cmd = .rejected why) ∧ t = u.refuseWord) := by
  unfold State.startCommand at h
  cases hd : decodeCommand u.cmd with
  | instr i => rw [hd] at h; exact .inl ⟨i, rfl, h⟩
  | rejected why => rw [hd] at h; injection h with h; exact .inr ⟨⟨why, rfl⟩, h.symm⟩

/-- Everything a step can be: at IDLE a command (the host's next or one already latched) executed or refused as reserved,
or nothing; before an inner TRANSACT the frame or CHIP_RESET as a whole; else one step of the sequencer. -/
theorem step_cases {s t : State} (h : step s = .next t) :
    (s.seq = .idle ∧
      ((∃ u, ((s.busy = true ∧ u = s) ∨ (s.busy = false ∧ ∃ w rest, s.host = w :: rest ∧ u = accepted s w rest)) ∧
        ((∃ i, decodeCommand u.cmd = .instr i ∧ exec i u = .next t) ∨
         ((∃ why, decodeCommand u.cmd = .rejected why) ∧ t = u.refuseWord))) ∨
       (s.busy = false ∧ s.host = [] ∧ t = s))) ∨
    (∃ c len out, s.seq = .link c len out .load ∧ s.dly = 0 ∧ 1 ≤ len ∧ len ≤ 32 ∧
      ((c = .chipReset ∧ exec .chipReset s = .next t) ∨
       (c ≠ .chipReset ∧ ∃ i, decodeFrame len out = .instr i ∧ exec i s = .next t))) ∨
    (s.seq ≠ .idle ∧ t = s.tick) := by
  unfold step State.fetch at h
  cases hs : s.seq with
  | idle =>
    simp only [hs] at h
    refine .inl ⟨rfl, ?_⟩
    unfold State.fetchCommand at h
    cases hb : s.busy with
    | true =>
      rw [hb, if_pos rfl] at h
      exact .inl ⟨s, .inl ⟨rfl, rfl⟩, startCommand_next h⟩
    | false =>
      rw [hb, if_neg (by decide)] at h
      cases hh : s.host with
      | nil => rw [hh] at h; injection h with h; exact .inr ⟨rfl, rfl, h.symm⟩
      | cons w rest =>
        rw [hh] at h
        exact .inl ⟨accepted s w rest, .inr ⟨rfl, w, rest, rfl, rfl⟩, startCommand_next h⟩
  | gpioInit ph => simp only [hs] at h; injection h with h; exact .inr (.inr ⟨by simp, h.symm⟩)
  | powerUp ph => simp only [hs] at h; injection h with h; exact .inr (.inr ⟨by simp, h.symm⟩)
  | link c len out ph =>
    by_cases hp : ph = .load
    · subst hp
      simp only [hs] at h
      by_cases hd : s.dly = 0
      · rw [if_pos hd] at h
        unfold State.fetchFrame at h
        by_cases h0 : len = 0
        · rw [if_pos h0] at h; cases h
        · rw [if_neg h0] at h
          by_cases h32 : 32 < len
          · rw [if_pos h32] at h; cases h
          · rw [if_neg h32] at h
            by_cases hc : c = .chipReset
            · rw [if_pos hc] at h
              exact .inr (.inl ⟨c, len, out, rfl, hd, by omega, by omega, .inl ⟨hc, h⟩⟩)
            · rw [if_neg hc] at h
              cases hf : decodeFrame len out with
              | instr i =>
                rw [hf] at h
                exact .inr (.inl ⟨c, len, out, rfl, hd, by omega, by omega, .inr ⟨hc, i, hf, h⟩⟩)
              | rejected why =>
                rw [hf] at h; injection h with h; exact .inr (.inr ⟨by simp, h.symm⟩)
      · rw [if_neg hd] at h; injection h with h; exact .inr (.inr ⟨by simp, h.symm⟩)
    · cases ph <;> first | exact absurd rfl hp | (simp only [hs] at h; injection h with h; exact .inr (.inr ⟨by simp, h.symm⟩))

theorem run_of_next (M : Host.Core) {s u : M.State} (n : Nat) (h : M.step s = .next u) :
    M.run (n + 1) s = M.run n u := by
  rw [show M.run (n + 1) s = (match M.step s with
    | .next v => M.run n v
    | .fault r => .fault r
    | .refused r => .refused r) from rfl, h]

/-- A run of the machine whose first step answers a next state goes on from there. -/
theorem run_succ {s u : State} (n : Nat) (h : step s = .next u) : core.run (n + 1) s = core.run n u :=
  run_of_next core n h

end Sys2Proof.Machine
end

