-- ==== Sys2Proof/Tests/Slice0.lean ====
section
/-! SUPPORT. Tests, the expected results taken from 95_test_vectors and the tables of 30_encoding; and for every statement
with hypotheses a witness that meets them. -/

namespace Sys2Proof.Tests

open Sys2Proof.Machine

/-- The default polarities, small delays, `MAIN_ADDR = 0x00`, two pins without a role (95_test_vectors 3.3). -/
def params : Params := ⟨2, Config.defaultPol, 1, 2, 3, 4, 0x00, none⟩

/-- A pin as 95_test_vectors GI1 finds it. -/
def raw : PinCtl := ⟨3, .output, true, .other 0⟩

/-- Board X before GPIO_INIT (95_test_vectors GI1). -/
def rawPins : Pins := ⟨raw, raw, raw, raw, raw, raw, raw, raw, raw, raw, [raw, raw]⟩

/-- An output pin after bring-up. -/
def outPin (l : Level) : PinCtl := ⟨0, .output, l, .none⟩

/-- An input pin after bring-up. -/
def inPin : PinCtl := ⟨0, .input, true, .none⟩

/-- Board X after GPIO_INIT and POWER_UP (95_test_vectors PW1). -/
def upPins : Pins :=
  ⟨outPin true, outPin false, outPin false, inPin, outPin true, outPin true, outPin false, outPin false, inPin, inPin,
   [inPin, inPin]⟩

/-- The idle core on board X after bring-up, with the chip's next answers. -/
def up (answers : List Level) : State :=
  ⟨params, 0, 0, .idle, .idle, 0, 0, 0, 0, false, .ok, upPins, [], [], [], answers⟩

/-- The idle core on board X before GPIO_INIT. -/
def rawBoard : State := { up [] with pins := rawPins }

/-- The `n` low bits of a number, the most significant first. -/
def bits : Nat → Nat → List Level
  | 0, _ => []
  | n + 1, w => w.testBit n :: bits n w

/-- A view of the next state, if there is one. -/
def after {α : Type} (f : State → α) : Host.Outcome State Fault Refusal → Option α
  | .next t => some (f t)
  | _ => none

/-- The name of a refusal, if there is one. -/
def refusal : Host.Outcome State Fault Refusal → Option Refusal
  | .refused r => some r
  | _ => none

/-- The core with an operation running, RST at `r`, standing before a poll of CHIP_RESET. -/
def polling (r : Rst) (answers : List Level) : State :=
  { up answers with seq := .link .chipReset 24 0x800000 .load, rst := r, busy := true }

/-- The poll limit of `Params` set (95_test_vectors CR4 to CR7). -/
def limited (l : Nat) (s : State) : State := { s with params := { s.params with pollLimit := some l } }

/-! ## Operand contracts (30_encoding R86; 95_test_vectors E20 to E23 and their accepted neighbours) -/

theorem test_wellFormed_accepts : (Instr.transact 8 0xA5).wellFormed = true ∧ (Instr.transact 1 1).wellFormed = true ∧
    (Instr.transact 32 0xDEADBEEF).wellFormed = true ∧ (Instr.regRead 0x7F).wellFormed = true := by decide

theorem test_illFormed_len_zero : (Instr.transact 0 0).wellFormed = false := by decide
theorem test_illFormed_len_above_32 : (Instr.transact 33 0).wellFormed = false := by decide
theorem test_illFormed_payload : (Instr.transact 8 0xFFFFFFA5).wellFormed = false := by decide
theorem test_illFormed_regRead : (Instr.regRead 0x80).wellFormed = false := by decide
theorem test_illFormed_regWrite : (Instr.regWrite 0x80 0).wellFormed = false := by decide
theorem test_illFormed_strobe : (Instr.strobe 0x80).wellFormed = false := by decide

/-! ## Decoding, words written out from 30_encoding (95_test_vectors E1 to E23, W1 to W13) -/

theorem test_decode_gpioInit : decodeTableWord 48 0x100000000000 = some .gpioInit := by decide
theorem test_decode_powerUp : decodeTableWord 48 0x200000000000 = some .powerUp := by decide
theorem test_decode_transact : decodeTableWord 48 0x3020DEADBEEF = some (.transact 32 0xDEADBEEF) := by decide
theorem test_decode_regRead : decodeTableWord 48 0x407F00000000 = some (.regRead 0x7F) := by decide
theorem test_decode_regWrite : decodeTableWord 48 0x507F0000FFFF = some (.regWrite 0x7F 0xFFFF) := by decide
theorem test_decode_status : decodeTableWord 48 0x600000000000 = some .status := by decide
theorem test_decode_strobe : decodeTableWord 48 0x706100000000 = some (.strobe 0x61) := by decide
theorem test_decode_chipReset : decodeTableWord 48 0x800000000000 = some .chipReset := by decide
theorem test_decode_f8Select : decodeTableWord 8 0x7F = some (.f8Select 0x7F) := by decide
theorem test_decode_f24Read : decodeTableWord 24 0xAA0000 = some (.f24Read 0x2A) := by decide
theorem test_decode_f24Write : decodeTableWord 24 0x2A8000 = some (.f24Write 0x2A 0x8000) := by decide

/-- E13 to E19: a reserved word is rejected, and why. -/
theorem test_decode_reserved : decodeCommand 0x000000000000 = .rejected .reservedOp ∧
    decodeCommand 0x900000000000 = .rejected .reservedOp ∧ decodeCommand 0xF00000000000 = .rejected .reservedOp ∧
    decodeCommand 0x610000000000 = .rejected .reservedField ∧ decodeCommand 0x600100000000 = .rejected .unusedArg8 ∧
    decodeCommand 0x400900000001 = .rejected .unusedData ∧ decodeCommand 0x500900011234 = .rejected .unusedData := by
  decide

/-- E20 to E23: an operand outside its contract is no reserved word. -/
theorem test_decode_out_of_contract : decodeCommand 0x300000000000 = .instr (.transact 0 0) ∧
    decodeCommand 0x302100000000 = .instr (.transact 33 0) ∧ decodeCommand 0x408000000000 = .instr (.regRead 0x80) ∧
    decodeCommand 0x3008FFFFFFA5 = .instr (.transact 8 0xFFFFFFA5) := by decide

/-- E3, E9, W2, W4: the encoder. -/
theorem test_encode : encode (.transact 8 0xA5) = 0x3008000000A5 ∧ encode (.regWrite 0x09 0x1234) = 0x500900001234 ∧
    encode (.f24Read 0x09) = 0x890000 ∧ encode (.f24Write 0x09 0x1234) = 0x091234 := by decide

/-! ## One step of each instruction (95_test_vectors 3.3 to 3.7) -/

/-- GI1. -/
theorem test_gpioInit_gi1 : after (fun t => (t.pins.csn, t.pins.ind1, t.pins.miso, t.pins.atest0, t.pins.extras))
    (exec .gpioInit rawBoard) = some (⟨0, .output, false, .other 0⟩, ⟨0, .output, false, .other 0⟩,
      ⟨0, .input, true, .other 0⟩, ⟨0, .input, true, .other 0⟩,
      [⟨0, .input, true, .other 0⟩, ⟨0, .input, true, .other 0⟩]) := by decide

/-- GI3: both rails go off, and chip-select low; the pull modes stay. -/
theorem test_gpioInit_gi3 : after (fun t => (t.pins.csn.out, t.pins.en1v8.out, t.pins.en3v3.out, t.pins.atest0.pull))
    (exec .gpioInit (up [])) = some (false, false, false, .none) := by decide

/-- PW1: the events. -/
theorem test_powerUp_pw1 : after State.trace (exec .powerUp rawBoard) = some
    [.f (.role .atest0) 0, .dirw (.role .atest0) .input, .p (.role .atest0) .none, .f (.role .atest1) 0,
     .dirw (.role .atest1) .input, .p (.role .atest1) .none, .w .en1v8 true, .d 4, .w .csn true, .w .en3v3 true] := by
  decide

/-- PW3: an active-low rail. -/
theorem test_powerUp_pw3 : after (fun t => (t.pins.en1v8.out, t.pins.en3v3.out))
    (exec .powerUp { rawBoard with params := { params with pol := { params.pol with en1v8 := .activeLow } } }) =
    some (false, true) := by decide

/-- T1: the result, the number of events, and MOSI at `out[0]`. -/
theorem test_transact_t1 : after (fun t => (t.result, t.outcome, t.trace.length, t.pins.mosi.out, t.pins.sclk.out))
    (exec (.transact 8 0xA5) (up (bits 8 0x3C))) = some (0x3C, .ok, 51, true, false) := by decide +kernel

/-- T2: the events of one bit. -/
theorem test_transact_t2 : after State.trace (exec (.transact 1 1) (up [false])) = some
    [.w .csn false, .w .mosi true, .d 1, .w .sclk true, .s .miso false, .d 2, .w .sclk false, .d 3, .w .csn true] := by
  decide +kernel

/-- RG2: the header's answers are dropped. -/
theorem test_regRead_rg2 : after (fun t => (t.result, t.trace.length))
    (exec (.regRead 0x09) (up (bits 24 0xA51234))) = some (0x1234, 147) := by decide +kernel

/-- RG5: the result is discarded, and ACC holds what came back. -/
theorem test_regWrite_rg5 : after (fun t => (t.result, t.acc))
    (exec (.regWrite 0x09 0x1234) (up (bits 24 0xFFFFFF))) = some (0, 0xFFFFFF) := by decide +kernel

/-- W4: the MOSI stream of the write. -/
theorem test_regWrite_w4 : after (fun t => t.trace.filterMap fun e => match e with | .w .mosi l => some l | _ => none)
    (exec (.regWrite 0x09 0x1234) (up (bits 24 0))) = some (bits 24 0x091234) := by decide +kernel

/-- RG3. -/
theorem test_status_rg3 : after (fun t => (t.result, clockPulses t.trace))
    (exec .status (up (bits 8 0x2C))) = some (0x2C, 8) := by decide +kernel

/-- RG4, W11. -/
theorem test_strobe_rg4 : after (fun t => (t.result,
      t.trace.filterMap fun e => match e with | .w .mosi l => some l | _ => none))
    (exec (.strobe 0x61) (up (bits 8 0x2C))) = some (0x2C, bits 8 0x61) := by decide +kernel

/-- CR7: the first poll does not match, and the limit is one. -/
theorem test_chipReset_cr7 : after (fun t => (t.rst, t.outcome, t.result, t.trace.length))
    (exec .chipReset (limited 1 (up (bits 24 0 ++ bits 24 0xFFFF)))) = some (.failed, .timeout, 0x0000FFFF, 294) := by
  decide +kernel

/-- CR1's last transaction: in Enabling a readback of `0x8000` ends the operation. -/
theorem test_chipReset_last_poll : after (fun t => (t.rst, t.outcome, t.result, t.busy, t.seq))
    (exec .chipReset (polling .enabling (bits 24 0x8000))) = some (.done, .ok, 0, false, .idle) := by decide +kernel

/-- W11 as a bare frame: the sequencer is at IDLE after it. -/
theorem test_f8Select_w11 : after (fun t => (t.acc, t.seq, t.trace.length))
    (exec (.f8Select 0x61) (up (bits 8 0x2C))) = some (0x2C, .idle, 51) := by decide +kernel

/-- W2, as the frame of a REG_READ: its T_DONE comes next. -/
theorem test_f24Read_w2 : after (fun t => (t.acc, t.seq, t.result))
    (exec (.f24Read 0x09) { up (bits 24 0x001234) with seq := .link .regRead 24 0x890000 .load }) =
    some (0x1234, .link .regRead 24 0x890000 .done, 0) := by decide +kernel

/-- W8: the MOSI stream. -/
theorem test_f24Write_w8 : after (fun t => t.trace.filterMap fun e => match e with | .w .mosi l => some l | _ => none)
    (exec (.f24Write 0x2A 0x8000) (up (bits 24 0))) = some (bits 24 0x2A8000) := by decide +kernel

/-- P5's second command: a reserved word, from the host (60_exceptions R200). -/
theorem test_step_reserved : after (fun t => (t.outcome, t.result, t.rst, t.busy, t.trace))
    (step { up [] with host := [0x900000000000], rst := .failed, result := 0x10000 }) =
    some (.refused, 0, .failed, false, []) := by decide

/-- U1, U2, U4 (95_test_vectors E20, E21, E22). -/
theorem test_refusals : refusal (exec (.transact 0 0) (up [])) = some .lenZero ∧
    refusal (exec (.transact 33 0) (up [])) = some .lenAbove32 ∧
    refusal (exec (.regRead 0x80) (up [])) = some .addrAbove7Bits := by decide

/-- STAT after CR4: RST Failed (6), OUTCOME TIMEOUT (1), BUSY 0 (10_state R29). -/
theorem test_stat : ({ up [] with rst := .failed, outcome := .timeout } : State).stat = 0b00110010 := by decide

/-- R220: two resets with nothing between them leave two histories, so the free values after them need not be the same. -/
theorem test_externalReset_history : (up []).externalReset.history = [[], []] ∧
    (up []).externalReset.externalReset.history = [[], [], []] := by decide

/-- A word placed by `withFetchWord` is what the next step runs, from reset. -/
theorem test_withFetchWord : (∃ t, step (State.reset.withFetchWord 48 0x600000000000) = .next t ∧ t.cmd = 0x600000000000) ∧
    ∃ t, step (State.reset.withFetchWord 24 0x890000) = .next t ∧ t.bitidx = 0 := ⟨⟨_, rfl, rfl⟩, _, rfl, rfl⟩

/-- 42_transport R144's first five micro-phases, one bit, `T_SETUP` of 1: six steps to the raised clock. -/
theorem test_ticks : (State.ticks 6 (State.begin (.transact 1 1) (up []))).trace =
    [.w .csn false, .w .mosi true, .d 1, .w .sclk true] := by decide

/-- 10_state R45: while the delay runs SEQ is at the delay phase, and past it when DLY is 0. -/
theorem test_delay_position :
    (State.ticks 4 (State.begin (.transact 1 1) (up []))).seq = .link .transact 1 1 .setupWait ∧
    (State.ticks 4 (State.begin (.transact 1 1) (up []))).dly = 1 ∧
    (State.ticks 5 (State.begin (.transact 1 1) (up []))).seq = .link .transact 1 1 .rise ∧
    (State.ticks 5 (State.begin (.transact 1 1) (up []))).dly = 0 := by decide

/-- 10_state R30, 00_scope R11: the default polarities, the clock's low idle level among them. -/
theorem test_default_polarities : params.idle .csn = true ∧ params.idle .sclk = false ∧ params.active .mosi = true ∧
    params.active .miso = true ∧ params.active .en1v8 = true ∧ params.active .en3v3 = true := by decide

/-! ## Witnesses: for each statement with hypotheses, a state and operands that meet them -/

/-- The idle core with one word from the host. -/
def told (w : CmdWord) (answers : List Level) : State := { up answers with host := [w] }

/-- The core in the window of `TRANSACT 8, 0xA5`, before its first bit. -/
def inWindow : State :=
  { up [] with
    seq := .link .transact 8 0xA5 .drive, acc := 0xA5, bitidx := 7, busy := true
    pins := { upPins with csn := outPin false } }

/-- The core before the frame of a REG_READ. -/
def beforeFrame : State := { up [] with seq := .link .regRead 24 0x890000 .load, busy := true }

theorem told_inv (w : CmdWord) (answers : List Level) : (told w answers).Inv :=
  ⟨nofun, Nat.le_refl 0, nofun, nofun, nofun, rfl⟩

theorem inWindow_inv : inWindow.Inv := by
  refine ⟨fun _ => rfl, Nat.le_refl 0, ?_, ?_, ?_, rfl⟩ <;> intro c len out ph h <;> cases h <;> decide

theorem polling_inv (r : Rst) (answers : List Level) : (polling r answers).Inv := by
  refine ⟨fun _ => rfl, Nat.le_refl 0, ?_, ?_, ?_, rfl⟩ <;> intro c len out ph h <;> cases h
  · decide
  · nofun
  · nofun

theorem up_initialised : pinsInitialised upPins :=
  ⟨fun r => by cases r <;> exact ⟨rfl, rfl⟩, by decide⟩

theorem witness_EncodeOfDecode : decodeCommand 0x507F0000FFFF = .instr (.regWrite 0x7F 0xFFFF) ∧
    decodeF8 0x7F = .instr (.f8Select 0x7F) ∧ decodeF24 0xFF0000 = .instr (.f24Read 0x7F) ∧
    decodeF24 0x7FFFFF = .instr (.f24Write 0x7F 0xFFFF) := by decide

theorem witness_CommandRowsDecideDecoding : decodeCommand 0x302100000000 = .instr (.transact 33 0) ∧
    (Instr.regRead 0).isCommand = true ∧
    (0x40FF00000000 : CmdWord) &&& (Instr.regRead 0).row.2 = (Instr.regRead 0).row.1 := by decide

theorem witness_StepKeepsInv : (told 0x3008000000A5 []).Inv ∧ (∃ t, step (told 0x3008000000A5 []) = .next t) ∧
    inWindow.Inv ∧ (∃ t, step inWindow = .next t) ∧
    (polling .disabling []).Inv ∧ ∃ t, step (polling .disabling []) = .next t :=
  ⟨told_inv _ _, ⟨_, rfl⟩, inWindow_inv, ⟨_, rfl⟩, polling_inv _ _, _, rfl⟩

theorem witness_StepKeepsParams : (∃ t, exec (.f8Select 0x7F) (up []) = .next t) ∧
    ∃ t, step (told 0x200000000000 []) = .next t := ⟨⟨_, rfl⟩, _, rfl⟩

theorem witness_StepExtendsTrace : (∃ t, step (told 0x200000000000 []) = .next t) ∧ ∃ t, step inWindow = .next t :=
  ⟨⟨_, rfl⟩, _, rfl⟩

theorem witness_PinRolesStayAfterInit : (∃ t, exec .gpioInit rawBoard = .next t) ∧ pinsInitialised (told 0x600000000000 []).pins ∧
    (∃ t, step (told 0x600000000000 []) = .next t) ∧ pinsInitialised (up []).pins ∧
    ∃ t, exec .powerUp (up []) = .next t :=
  ⟨⟨_, rfl⟩, up_initialised, ⟨_, rfl⟩, up_initialised, _, rfl⟩

theorem witness_ClockAndDataOnlyInWindow : (Instr.transact 32 0xDEADBEEF ≠ .gpioInit) ∧
    (∃ t, exec (.transact 32 0xDEADBEEF) (up []) = .next t) ∧ (Instr.chipReset ≠ .gpioInit) ∧
    ∃ t, exec .chipReset (up []) = .next t := ⟨by decide, ⟨_, rfl⟩, by decide, _, rfl⟩

theorem witness_OperationsEndOk : ((Instr.regRead 0x7F).isCommand = true ∧ Instr.regRead 0x7F ≠ .chipReset ∧
      ∃ t, exec (.regRead 0x7F) (up []) = .next t) ∧
    (polling .enabling (bits 24 0x8000)).params.pollLimit = none ∧
    ∃ t, exec .chipReset (polling .enabling (bits 24 0x8000)) = .next t ∧ t.seq = .idle :=
  ⟨⟨rfl, by decide, _, rfl⟩, rfl, _, rfl, by decide +kernel⟩

theorem witness_OnlyChipResetWritesRst : Instr.f24Read 0x7F ≠ .chipReset ∧ ∃ t, exec (.f24Read 0x7F) (up []) = .next t :=
  ⟨by decide, _, rfl⟩

theorem witness_StepRunsCommand : ((told 0x600000000000 []).seq = .idle ∧ (told 0x600000000000 []).busy = false ∧
      (told 0x600000000000 []).host = [0x600000000000] ∧ decodeCommand 0x600000000000 = .instr .status) ∧
    ({ up [] with busy := true, cmd := 0x800000000000 } : State).seq = .idle ∧
    ({ up [] with busy := true, cmd := 0x800000000000 } : State).busy = true ∧
    decodeCommand ({ up [] with busy := true, cmd := 0x800000000000 } : State).cmd = .instr .chipReset := by decide

theorem witness_StepRunsFrame : (beforeFrame.seq = .link .regRead 24 0x890000 .load ∧ beforeFrame.dly = 0 ∧
      Caller.regRead ≠ .chipReset ∧ decodeFrame 24 0x890000 = .instr (.f24Read 0x09)) ∧
    (polling .idle []).seq = .link .chipReset 24 0x800000 .load ∧ (polling .idle []).dly = 0 ∧ 1 ≤ 24 ∧ 24 ≤ 32 := by
  decide

/-- A raw frame before its transaction: `TRANSACT 8, 0xA5`, with the length `len` in its place. -/
def beforeRaw (len : Nat) : State := { up [] with seq := .link .transact len 0xA5 .load, busy := true }

theorem witness_StepOtherwiseTicks : ({ up [] with seq := .gpioInit .dir } : State).seq = .gpioInit .dir ∧
    ({ up [] with seq := .powerUp .settle } : State).seq = .powerUp .settle ∧
    (inWindow.seq = .link .transact 8 0xA5 .drive ∧ (LinkPhase.drive ≠ .load ∨ inWindow.dly ≠ 0)) ∧
    ((beforeRaw 8).seq = .link .transact 8 0xA5 .load ∧ (beforeRaw 8).dly = 0 ∧ Caller.transact ≠ .chipReset ∧ 1 ≤ 8 ∧
      8 ≤ 32 ∧ decodeFrame 8 0xA5 = .rejected .rawFrame) ∧
    ((beforeRaw 0).seq = .link .transact 0 0xA5 .load ∧ (beforeRaw 0).dly = 0) ∧
    ((beforeRaw 33).seq = .link .transact 33 0xA5 .load ∧ (beforeRaw 33).dly = 0 ∧ 32 < 33) ∧
    ({ beforeFrame with dly := 1 } : State).seq ≠ .idle ∧ ({ beforeFrame with dly := 1 } : State).dly ≠ 0 := by decide

theorem witness_ReservedWordIsRefused : (told 0x610000000000 []).seq = .idle ∧ (told 0x610000000000 []).busy = false ∧
    (told 0x610000000000 []).host = [0x610000000000] ∧
    ∀ j : Instr, j.isCommand = true → (0x610000000000 : CmdWord) &&& j.row.2 ≠ j.row.1 := by
  refine ⟨rfl, rfl, rfl, fun j hj => ?_⟩
  cases j with
  | gpioInit => decide
  | powerUp => decide
  | transact _ _ => exact (by decide : (0x610000000000 : CmdWord) &&& 0xFF0000000000 ≠ 0x300000000000)
  | regRead _ => exact (by decide : (0x610000000000 : CmdWord) &&& 0xFF00FFFFFFFF ≠ 0x400000000000)
  | regWrite _ _ => exact (by decide : (0x610000000000 : CmdWord) &&& 0xFF00FFFF0000 ≠ 0x500000000000)
  | status => decide
  | strobe _ => exact (by decide : (0x610000000000 : CmdWord) &&& 0xFF00FFFFFFFF ≠ 0x700000000000)
  | chipReset => decide
  | f8Select _ => cases hj
  | f24Read _ => cases hj
  | f24Write _ _ => cases hj

theorem witness_IdleCoreWaits : (up []).seq = .idle ∧ (up []).busy = false ∧ (up []).host = [] := by decide

theorem witness_HostPortAccess : (up []).busy = false ∧ (polling .idle []).busy = true ∧ (1 : Nat) ≠ 0 ∧ 2 < 3 := by decide

theorem witness_GpioInitSetsPins : (∃ c, (up []).pins.get? (.extra 1) = some c) ∧ Role.ind1.isOutput = true ∧
    Role.atest1.isOutput = false := ⟨⟨_, rfl⟩, rfl, rfl⟩

theorem witness_GpioInitFrame : (∃ t, exec .gpioInit rawBoard = .next t) ∧ Role.miso.isOutput = false := ⟨⟨_, rfl⟩, rfl⟩

theorem witness_GpioInitIdempotent : ∃ t, exec .gpioInit rawBoard = .next t ∧ ∃ u, exec .gpioInit t = .next u :=
  ⟨_, rfl, _, rfl⟩

theorem witness_GpioInitTrace : ∃ t, exec .gpioInit rawBoard = .next t := ⟨_, rfl⟩

theorem witness_GpioInitDirectionGlitch : Role.en3v3.isOutput = true := rfl

theorem witness_PowerUpPinsAndFrame : ∃ t, exec .powerUp rawBoard = .next t := ⟨_, rfl⟩

theorem witness_PowerUpEndState : pinsInitialised (up []).pins ∧ ∃ t, exec .powerUp (up []) = .next t :=
  ⟨up_initialised, _, rfl⟩

/-- The shortest and the longest transaction. -/
theorem witness_TransactCompletes : (1 ≤ (1 : BitVec 8).toNat ∧ (1 : BitVec 8).toNat ≤ 32 ∧ payloadFits 1 1 = true) ∧
    1 ≤ (32 : BitVec 8).toNat ∧ (32 : BitVec 8).toNat ≤ 32 ∧ payloadFits 32 0xDEADBEEF = true := by decide

theorem witness_TransactReturnsEcho : 1 ≤ (32 : BitVec 8).toNat ∧ (32 : BitVec 8).toNat ≤ 32 ∧
    payloadFits 32 0xDEADBEEF = true ∧ pinDriven (up (bits 32 0x0BADF00D ++ [true])).pins.miso = false ∧
    (up (bits 32 0x0BADF00D ++ [true])).answers = bits 32 0x0BADF00D ++ [true] ∧ (bits 32 0x0BADF00D).length = 32 :=
  ⟨by decide, by decide, by decide, rfl, rfl, rfl⟩

theorem witness_TransactPulsesAndRest : ∃ t, exec (.transact 32 0xDEADBEEF) (up []) = .next t := ⟨_, rfl⟩

theorem witness_TransactWideWord : 1 ≤ (8 : BitVec 8).toNat ∧ (8 : BitVec 8).toNat ≤ 32 ∧
    payloadFits 8 0xFFFFFFA5 = false := by decide

theorem witness_TransactLengthRefused : (0 : BitVec 8).toNat = 0 ∧ 32 < (33 : BitVec 8).toNat := by decide

theorem witness_RegReadCompletes : (0x7F : BitVec 8).toNat < 0x80 := by decide
theorem witness_RegWriteCompletes : (0x7F : BitVec 8).toNat < 0x80 := by decide
theorem witness_StrobeCompletes : (0x7F : BitVec 8).toNat < 0x80 := by decide

theorem witness_RegReadReturnsDataPhase : (0x7F : BitVec 8).toNat < 0x80 ∧ pinDriven upPins.miso = false ∧
    (up (bits 8 0xA5 ++ bits 16 0x1234 ++ [])).answers = bits 8 0xA5 ++ bits 16 0x1234 ++ [] ∧
    (bits 8 0xA5).length = 8 ∧ (bits 16 0x1234).length = 16 := ⟨by decide, rfl, rfl, rfl, rfl⟩

theorem witness_AddressAbove7BitsRefused : 0x80 ≤ (0x80 : BitVec 8).toNat := by decide

theorem witness_RegisterOpsExpandToTransact :
    ((∃ t, exec (.regRead 0x7F) (up []) = .next t) ∧
      ∃ u, exec (.transact 24 ((((0x7F : BitVec 8) ||| 0x80).setWidth 32) <<< 16)) (up []) = .next u) ∧
    ((∃ t, exec (.regWrite 0x7F 0xFFFF) (up []) = .next t) ∧
      ∃ u, exec (.transact 24 ((((0x7F : BitVec 8).setWidth 32) <<< 16) ||| (0xFFFF : Value).setWidth 32)) (up []) = .next u) ∧
    ((∃ t, exec .status (up []) = .next t) ∧ ∃ u, exec (.transact 8 0) (up []) = .next u) ∧
    (∃ t, exec (.strobe 0x7F) (up []) = .next t) ∧ ∃ u, exec (.transact 8 ((0x7F : BitVec 8).setWidth 32)) (up []) = .next u :=
  ⟨⟨⟨_, rfl⟩, _, rfl⟩, ⟨⟨_, rfl⟩, _, rfl⟩, ⟨⟨_, rfl⟩, _, rfl⟩, ⟨_, rfl⟩, _, rfl⟩

theorem witness_RegisterPulseCounts : (∃ t, exec .status (up []) = .next t) ∧ (∃ t, exec (.strobe 0x7F) (up []) = .next t) ∧
    (∃ t, exec (.regRead 0) (up []) = .next t) ∧ ∃ t, exec (.regWrite 0 0) (up []) = .next t :=
  ⟨⟨_, rfl⟩, ⟨_, rfl⟩, ⟨_, rfl⟩, _, rfl⟩

theorem witness_RegisterOpsFrame : (∃ t, exec .status (up []) = .next t) ∧ (∃ t, exec (.strobe 0x7F) (up []) = .next t) ∧
    (∃ t, exec (.regRead 0) (up []) = .next t) ∧ ∃ t, exec (.regWrite 0 0) (up []) = .next t :=
  ⟨⟨_, rfl⟩, ⟨_, rfl⟩, ⟨_, rfl⟩, _, rfl⟩

theorem witness_TransactAndFramesFrame : (∃ t, exec (.transact 1 1) (up []) = .next t) ∧
    (∃ t, exec (.f8Select 0x7F) (up []) = .next t) ∧ (∃ t, exec (.f24Read 0x7F) (up []) = .next t) ∧
    (∃ t, exec (.f24Write 0x7F 0xFFFF) (up []) = .next t) ∧ (Instr.f24Write 0x7F 0xFFFF).isCommand = false :=
  ⟨⟨_, rfl⟩, ⟨_, rfl⟩, ⟨_, rfl⟩, ⟨_, rfl⟩, rfl⟩

/-- CR1's answers. -/
theorem witness_ChipResetCompletes :
    inChipReset (up (bits 48 0 ++ bits 48 0x8000)).seq = false ∧ pinDriven upPins.miso = false ∧
    96 ≤ (up (bits 48 0 ++ bits 48 0x8000)).answers.length ∧
    readback (answersOf (up (bits 48 0 ++ bits 48 0x8000)) 24) = 0x0000 ∧
    readback (answersOf (up (bits 48 0 ++ bits 48 0x8000)) 72) = 0x8000 := by decide +kernel

/-- CR8's answers, without a limit and with a limit of two. -/
theorem witness_ChipResetStartsDisabling : inChipReset (up (bits 48 0xFFFF)).seq = false ∧ pinDriven upPins.miso = false ∧
    48 ≤ (up (bits 48 0xFFFF)).answers.length ∧ readback (answersOf (up (bits 48 0xFFFF)) 24) ≠ 0x0000 ∧
    mayPollAgain params 1 ∧ mayPollAgain (limited 2 (up [])).params 1 :=
  ⟨rfl, rfl, by decide, by decide +kernel, nofun, fun l h => by cases h; decide⟩

/-- Both phases, a readback that is wrong in one bit; the first poll of two, and any poll without a limit. -/
theorem witness_PollMissPollsAgain :
    (inChipReset (limited 2 (polling .disabling (bits 24 1))).seq = true ∧ pinDriven upPins.miso = false ∧
      24 ≤ (limited 2 (polling .disabling (bits 24 1))).answers.length ∧
      mayPollAgain (limited 2 (polling .disabling (bits 24 1))).params 1 ∧
      (limited 2 (polling .disabling (bits 24 1))).rst = .disabling ∧
      readback (answersOf (limited 2 (polling .disabling (bits 24 1))) 0) ≠ 0x0000) ∧
    inChipReset (polling .enabling (bits 24 0x8001)).seq = true ∧
    24 ≤ (polling .enabling (bits 24 0x8001)).answers.length ∧ mayPollAgain params 1 ∧
    (polling .enabling (bits 24 0x8001)).rst = .enabling ∧
    readback (answersOf (polling .enabling (bits 24 0x8001)) 0) ≠ 0x8000 :=
  ⟨⟨rfl, rfl, by decide, fun l h => by cases h; decide, rfl, by decide +kernel⟩, rfl, by decide, nofun, rfl,
   by decide +kernel⟩

theorem witness_EnablingPollMatchEnds : inChipReset (polling .enabling (bits 24 0x8000)).seq = true ∧
    (polling .enabling (bits 24 0x8000)).rst = .enabling ∧ pinDriven (polling .enabling (bits 24 0x8000)).pins.miso = false ∧
    24 ≤ (polling .enabling (bits 24 0x8000)).answers.length ∧
    readback (answersOf (polling .enabling (bits 24 0x8000)) 0) = 0x8000 := by decide +kernel

/-- CR9's answers (zeros), from a poll and from the start; and answers that match in both phases. -/
theorem witness_DisablingPollMatchGoesOn :
    (inChipReset (polling .disabling (bits 72 0)).seq = true ∧ (polling .disabling (bits 72 0)).rst = .disabling ∧
      pinDriven (polling .disabling (bits 72 0)).pins.miso = false ∧ 72 ≤ (polling .disabling (bits 72 0)).answers.length ∧
      readback (answersOf (polling .disabling (bits 72 0)) 0) = 0x0000 ∧
      readback (answersOf (polling .disabling (bits 72 0)) 48) ≠ 0x8000 ∧ mayPollAgain params 1) ∧
    (72 ≤ (polling .disabling (bits 72 0x8000)).answers.length ∧
      readback (answersOf (polling .disabling (bits 72 0x8000)) 0) = 0x0000 ∧
      readback (answersOf (polling .disabling (bits 72 0x8000)) 48) = 0x8000) ∧
    inChipReset (up (bits 96 0)).seq = false ∧ 96 ≤ (up (bits 96 0)).answers.length ∧
    readback (answersOf (up (bits 96 0)) 24) = 0x0000 ∧ readback (answersOf (up (bits 96 0)) 72) ≠ 0x8000 :=
  ⟨⟨rfl, rfl, rfl, by decide, by decide +kernel, by decide +kernel, nofun⟩,
   ⟨by decide, by decide +kernel, by decide +kernel⟩, rfl, by decide, by decide +kernel, by decide +kernel⟩

/-- CR7's answers, and zeros with a limit of one, from a poll and from the start. -/
theorem witness_ImmediateTimeouts :
    (inChipReset (limited 1 (up (bits 48 0xFFFF))).seq = false ∧
      (limited 1 (up (bits 48 0xFFFF))).params.pollLimit = some 1 ∧
      pinDriven (limited 1 (up (bits 48 0xFFFF))).pins.miso = false ∧
      48 ≤ (limited 1 (up (bits 48 0xFFFF))).answers.length ∧
      readback (answersOf (limited 1 (up (bits 48 0xFFFF))) 24) ≠ 0x0000) ∧
    (inChipReset (limited 1 (polling .disabling (bits 72 0))).seq = true ∧
      (limited 1 (polling .disabling (bits 72 0))).rst = .disabling ∧
      (limited 1 (polling .disabling (bits 72 0))).params.pollLimit = some 1 ∧
      72 ≤ (limited 1 (polling .disabling (bits 72 0))).answers.length ∧
      readback (answersOf (limited 1 (polling .disabling (bits 72 0))) 0) = 0x0000 ∧
      readback (answersOf (limited 1 (polling .disabling (bits 72 0))) 48) ≠ 0x8000) ∧
    inChipReset (limited 1 (up (bits 96 0))).seq = false ∧ 96 ≤ (limited 1 (up (bits 96 0))).answers.length ∧
    readback (answersOf (limited 1 (up (bits 96 0))) 24) = 0x0000 ∧
    readback (answersOf (limited 1 (up (bits 96 0))) 72) ≠ 0x8000 := by decide +kernel

/-- Both phases, the limit one: a poll that is wrong in the lowest bit only. -/
theorem witness_PollLimitTimesOut :
    (inChipReset (limited 1 (polling .disabling (bits 24 1))).seq = true ∧
      (limited 1 (polling .disabling (bits 24 1))).params.pollLimit = some 1 ∧
      (limited 1 (polling .disabling (bits 24 1))).pollcnt + 1 = 1 ∧
      pinDriven (limited 1 (polling .disabling (bits 24 1))).pins.miso = false ∧
      24 ≤ (limited 1 (polling .disabling (bits 24 1))).answers.length ∧
      (limited 1 (polling .disabling (bits 24 1))).rst = .disabling ∧
      readback (answersOf (limited 1 (polling .disabling (bits 24 1))) 0) ≠ 0x0000) ∧
    inChipReset (limited 1 (polling .enabling (bits 24 0x8001))).seq = true ∧
    (limited 1 (polling .enabling (bits 24 0x8001))).params.pollLimit = some 1 ∧
    (limited 1 (polling .enabling (bits 24 0x8001))).pollcnt + 1 = 1 ∧
    pinDriven (limited 1 (polling .enabling (bits 24 0x8001))).pins.miso = false ∧
    24 ≤ (limited 1 (polling .enabling (bits 24 0x8001))).answers.length ∧
    (limited 1 (polling .enabling (bits 24 0x8001))).rst = .enabling ∧
    readback (answersOf (limited 1 (polling .enabling (bits 24 0x8001))) 0) ≠ 0x8000 := by decide +kernel

theorem witness_ChipResetFrame : (∃ t, exec .chipReset (up []) = .next t) ∧
    ∃ t, exec .chipReset (polling .enabling []) = .next t := ⟨⟨_, rfl⟩, _, rfl⟩

/-- Two polls in each phase. -/
theorem witness_HangIsAnInfiniteRun :
    (inChipReset (polling .disabling (bits 48 0xFFFF00FFFF)).seq = true ∧ (polling .disabling (bits 48 0xFFFF00FFFF)).Inv ∧
      (polling .disabling (bits 48 0xFFFF00FFFF)).dly = 0 ∧
      (polling .disabling (bits 48 0xFFFF00FFFF)).params.pollLimit = none ∧
      pinDriven (polling .disabling (bits 48 0xFFFF00FFFF)).pins.miso = false ∧
      24 * 2 ≤ (polling .disabling (bits 48 0xFFFF00FFFF)).answers.length ∧
      (polling .disabling (bits 48 0xFFFF00FFFF)).rst = .disabling ∧
      ∀ k < 2, readback (answersOf (polling .disabling (bits 48 0xFFFF00FFFF)) (24 * k)) ≠ 0x0000) ∧
    inChipReset (polling .enabling (bits 48 0)).seq = true ∧ (polling .enabling (bits 48 0)).Inv ∧
    (polling .enabling (bits 48 0)).dly = 0 ∧ (polling .enabling (bits 48 0)).params.pollLimit = none ∧
    pinDriven (polling .enabling (bits 48 0)).pins.miso = false ∧ 24 * 2 ≤ (polling .enabling (bits 48 0)).answers.length ∧
    (polling .enabling (bits 48 0)).rst = .enabling ∧
    ∀ k < 2, readback (answersOf (polling .enabling (bits 48 0)) (24 * k)) ≠ 0x8000 :=
  ⟨⟨rfl, polling_inv _ _, rfl, rfl, rfl, by decide, rfl, by decide +kernel⟩,
   rfl, polling_inv _ _, rfl, rfl, rfl, by decide, rfl, by decide +kernel⟩

/-- A delay of some ticks, and one of none. -/
theorem witness_DelayHoldsPosition : ({ up [] with seq := .powerUp .settle } : State).dly = 0 ∧
    delayAt params (.powerUp .settle) = some 4 ∧ (0 < 4 ∧ 3 < 4) ∧
    delayAt { params with tTrail := 0 } (.link .transact 8 0xA5 .trailWait) = some 0 := by decide

theorem witness_TicksReachExec : (up []).seq = .idle ∧ (up []).dly = 0 ∧ (∃ t, exec (.regRead 0x7F) (up []) = .next t) ∧
    ∃ t, exec .chipReset (up []) = .next t := ⟨rfl, rfl, ⟨_, rfl⟩, _, rfl⟩

end Sys2Proof.Tests
end

section
/-! PROOFS. What every move of the machine keeps, and the rules of the state that follow from it. -/

namespace Sys2Proof.Machine

/-! ## Pins: what keeps them initialised -/

/-- A change of the pins that keeps their number, and keeps them initialised once they are (10_state R36). -/
structure PinsContinue (p q : Pins) : Prop where
  extras : q.extras.length = p.extras.length
  initialised : pinsInitialised p → pinsInitialised q

theorem PinsContinue.refl (p : Pins) : PinsContinue p p := ⟨rfl, id⟩

theorem PinsContinue.trans {p q r : Pins} (h : PinsContinue p q) (h' : PinsContinue q r) : PinsContinue p r :=
  ⟨h'.extras.trans h.extras, h'.initialised ∘ h.initialised⟩

/-- Any change of one pin that leaves the initial function and direction in place. -/
theorem PinsContinue.modify (p : Pins) (r : Role) (f : PinCtl → PinCtl)
    (hf : ∀ c, c.func = funcGpio → c.dir = initialDir (some r) → (f c).func = funcGpio ∧ (f c).dir = initialDir (some r)) :
    PinsContinue p (p.modify r f) := by
  refine ⟨by simp, fun ⟨hr, he⟩ => ⟨fun r' => ?_, by simpa using he⟩⟩
  rw [Pins.ofRole_modify]
  split
  case isTrue h => subst h; exact hf _ (hr r').1 (hr r').2
  case isFalse => exact hr r'

/-- Any change of all pins that leaves the initial function and direction in place. -/
theorem PinsContinue.mapAll (p : Pins) (f : Option Role → PinCtl → PinCtl)
    (hf : ∀ r c, c.func = funcGpio → c.dir = initialDir r → (f r c).func = funcGpio ∧ (f r c).dir = initialDir r) :
    PinsContinue p (p.mapAll f) := by
  refine ⟨by simp, fun ⟨hr, he⟩ => ⟨fun r => ?_, fun c hc => ?_⟩⟩
  · rw [Pins.ofRole_mapAll]
    exact hf _ _ (hr r).1 (hr r).2
  · obtain ⟨c', hc', rfl⟩ := List.mem_map.1 (by simpa using hc)
    exact hf none c' (he c' hc').1 (he c' hc').2

theorem PinsContinue.setOut (p : Pins) (r : Role) (l : Level) : PinsContinue p (p.setOut r l) :=
  .modify p r _ fun _ h h' => ⟨h, h'⟩

theorem PinsContinue.setFunc (p : Pins) (r : Role) : PinsContinue p (p.setFunc r funcGpio) :=
  .modify p r _ fun _ _ h' => ⟨rfl, h'⟩

theorem PinsContinue.setDir (p : Pins) (r : Role) : PinsContinue p (p.setDir r (initialDir (some r))) :=
  .modify p r _ fun _ h _ => ⟨h, rfl⟩

theorem PinsContinue.setPull (p : Pins) (r : Role) (m : Pull) : PinsContinue p (p.setPull r m) :=
  .modify p r _ fun _ h h' => ⟨h, h'⟩

theorem lowOutput_func (r : Option Role) (c : PinCtl) : (lowOutput r c).func = c.func := by
  unfold lowOutput
  split
  · split <;> rfl
  · rfl

theorem lowOutput_dir (r : Option Role) (c : PinCtl) : (lowOutput r c).dir = c.dir := by
  unfold lowOutput
  split
  · split <;> rfl
  · rfl

theorem PinsContinue.restPins (s : State) (out : Word) : PinsContinue s.pins (restPins s out) :=
  ((PinsContinue.setOut _ _ _).trans (.setOut _ _ _)).trans (.setOut _ _ _)

/-- POWER_UP stores to the analog-test pins the function and the direction that GPIO_INIT gave them (41_power_seq R121). -/
theorem PinsContinue.poweredPins (s : State) : PinsContinue s.pins (poweredPins s) :=
  (((((((PinsContinue.setFunc _ .atest0).trans (.setDir _ .atest0)).trans (.setPull _ _ _)).trans
    (.setFunc _ .atest1)).trans (.setDir _ .atest1)).trans (.setPull _ _ _)).trans (.setOut _ _ _)).trans
    ((PinsContinue.setOut _ _ _).trans (.setOut _ _ _))

/-! ## What every move of the machine keeps -/

/-- `t` can come after `s`: the parameters and the record of the earlier resets stand (10_state R43, log 15), the trace has
only grown (10_state R46), and the pins continue (10_state R36). -/
structure Continues (s t : State) : Prop where
  params : t.params = s.params
  past : t.past = s.past
  trace : s.trace <+: t.trace
  pins : PinsContinue s.pins t.pins

theorem Continues.refl (s : State) : Continues s s := ⟨rfl, rfl, ⟨[], List.append_nil _⟩, .refl _⟩

theorem Continues.trans {s t u : State} (h : Continues s t) (h' : Continues t u) : Continues s u :=
  ⟨h'.params.trans h.params, h'.past.trans h.past, h.trace.trans h'.trace, h.pins.trans h'.pins⟩

/-- A move that appends events and changes the pins as a continuation does, whatever it does to the other registers. -/
theorem Continues.of_events {s t : State} (es : List Event) (hparams : t.params = s.params) (hpast : t.past = s.past)
    (htrace : t.trace = s.trace ++ es) (hpins : PinsContinue s.pins t.pins) : Continues s t :=
  ⟨hparams, hpast, ⟨es, htrace.symm⟩, hpins⟩

/-- A move of the control registers only. -/
theorem Continues.control {s t : State} (hparams : t.params = s.params) (hpast : t.past = s.past)
    (htrace : t.trace = s.trace) (hpins : t.pins = s.pins) : Continues s t :=
  .of_events [] hparams hpast (by simpa using htrace) (hpins ▸ .refl _)

theorem Continues.goTo {s t : State} (h : Continues s t) (q : Seq) : Continues s (t.goTo q) :=
  h.trans (.control rfl rfl rfl rfl)

theorem Continues.finish {s t : State} (h : Continues s t) (o : OutcomeCode) (r : Word) : Continues s (t.finish o r) :=
  h.trans (.control rfl rfl rfl rfl)

theorem Continues.drive (r : Role) (l : Level) (s : State) : Continues s (s.drive r l) :=
  .of_events _ rfl rfl rfl (.setOut _ _ _)

theorem Continues.sampleInto (n : Nat) (s : State) : Continues s (s.sampleInto n) :=
  .of_events _ rfl rfl rfl (.refl _)

theorem Continues.enterDelay (t : Nat) (s : State) : Continues s (s.enterDelay t) :=
  .of_events _ rfl rfl rfl (.refl _)

theorem Continues.setFunc (r : Role) (s : State) : Continues s (s.setFunc r funcGpio) :=
  .of_events _ rfl rfl rfl (.setFunc _ _)

theorem Continues.setDir (r : Role) (s : State) : Continues s (s.setDir r (initialDir (some r))) :=
  .of_events _ rfl rfl rfl (.setDir _ _)

theorem Continues.setPull (r : Role) (m : Pull) (s : State) : Continues s (s.setPull r m) :=
  .of_events _ rfl rfl rfl (.setPull _ _ _)

theorem Continues.gpioFunc (s : State) : Continues s s.gpioFunc :=
  .of_events _ rfl rfl rfl (.mapAll s.pins (fun _ c => { c with func := funcGpio }) fun _ _ _ h' => ⟨rfl, h'⟩)

theorem Continues.gpioDir (s : State) : Continues s s.gpioDir :=
  .of_events _ rfl rfl rfl (.mapAll s.pins (fun r c => { c with dir := initialDir r }) fun _ _ h _ => ⟨h, rfl⟩)

theorem Continues.gpioLow (s : State) : Continues s s.gpioLow :=
  .of_events _ rfl rfl rfl (.mapAll _ _ fun r c h h' => ⟨(lowOutput_func r c).trans h, (lowOutput_dir r c).trans h'⟩)

theorem Continues.afterWindow (s : State) (out : Word) (levels : List Level) : Continues s (afterWindow s out levels) :=
  .of_events _ rfl rfl rfl (.restPins _ _)

/-- Every execution of every instruction. -/
theorem exec_continues {i : Instr} {s t : State} (h : exec i s = .next t) : Continues s t := by
  by_cases hi : i.isOneFrame = true
  · obtain ⟨out, levels, acc, seq, result, outcome, busy, _, _, _, _, rfl⟩ := oneFrame_eq hi h
    exact (Continues.afterWindow s out levels).trans (.control rfl rfl rfl rfl)
  · cases i with
    | gpioInit =>
      injection h with h
      exact h ▸ (((Continues.gpioFunc s).trans (.gpioDir _)).trans (.gpioLow _)).finish _ _
    | powerUp =>
      injection h with h
      rw [raiseRails_eq] at h
      exact h ▸ .of_events _ rfl rfl rfl (.poweredPins s)
    | chipReset =>
      exact chipReset_keeps (Continues s) (fun u out levels _ hu => hu.trans (.afterWindow u out levels))
        (fun _ _ _ _ hu => hu.trans (.control rfl rfl rfl rfl))
        (fun _ _ _ _ _ hu => hu.trans (.control rfl rfl rfl rfl)) s (.refl s) t h
    | _ => exact absurd rfl hi

/-! ## Moves to a position outside the window of a transaction -/

/-- A position at which no clause of the invariant speaks of the transaction's bits or of chip-select. -/
def outsideWindow : Seq → Prop
  | .link _ len _ ph => (1 ≤ len ∧ len ≤ 32) ∧ insideBitLoop ph = false ∧ insideWindow ph = false
  | _ => True

/-- `t` comes after `s` and stands outside a window, the delay timer not started, BUSY as it was if an operation runs. -/
structure Settles (s t : State) : Prop where
  continues : Continues s t
  timer : s.dly = 0 → t.dly = 0
  outside : outsideWindow t.seq
  busy : runsOperation t.seq = true → t.busy = s.busy

/-- A move that ends the operation settles. -/
theorem Settles.ended {s t : State} (hc : Continues s t) (hd : t.dly = s.dly) (hq : t.seq = .idle) : Settles s t :=
  ⟨hc, hd.trans, hq ▸ trivial, by rw [hq]; nofun⟩

theorem outsideWindow_seqAfterFrame {q : Seq} (h : outsideWindow q) : outsideWindow (seqAfterFrame q) := by
  unfold seqAfterFrame
  split
  · trivial
  · exact ⟨h.1, rfl, rfl⟩
  · exact h

/-- Every execution from outside a window ends outside one. -/
theorem exec_settles {i : Instr} {s t : State} (hd : s.dly = 0) (hq : outsideWindow s.seq) (h : exec i s = .next t) :
    Settles s t := by
  have hc := exec_continues h
  by_cases hi : i.isOneFrame = true
  · obtain ⟨out, levels, acc, seq, result, outcome, busy, -, -, hcmd, hframe, rfl⟩ := oneFrame_eq hi h
    cases hk : i.isCommand with
    | true => exact .ended hc hd.symm (hcmd hk).1
    | false =>
      obtain ⟨hseq, -, -, hbusy⟩ := hframe hk
      exact ⟨hc, fun _ => rfl, hseq ▸ outsideWindow_seqAfterFrame hq, fun _ => hbusy⟩
  · cases i with
    | gpioInit =>
      obtain ⟨f, d, w, -, -, -, e⟩ := gpioSteps_eq s
      injection h with h
      rw [e] at h
      exact .ended hc (h ▸ rfl) (h ▸ rfl)
    | powerUp =>
      injection h with h
      rw [raiseRails_eq] at h
      exact .ended hc (h ▸ hd.symm) (h ▸ rfl)
    | chipReset =>
      obtain ⟨htimer, ⟨hseq, -, -⟩ | ⟨w, hseq, hbusy, -, -⟩⟩ := chipReset_stops h
      · exact .ended hc (htimer.trans hd.symm) hseq
      · exact ⟨hc, fun _ => htimer, hseq ▸ ⟨by decide, rfl, rfl⟩, fun _ => hbusy⟩
    | _ => exact absurd rfl hi

/-! ## The end of an inner TRANSACT -/

theorem judgePoll_settles {sentinel : Value} (phase : Bool) {matched : State → State} {s : State}
    (hm : Settles s (matched (s.setPolls (s.pollcnt + 1)))) : Settles s (s.judgePoll sentinel phase matched) := by
  unfold State.judgePoll
  split
  · exact hm
  · split
    · exact .ended (.control rfl rfl rfl rfl) rfl rfl
    · exact ⟨.control rfl rfl rfl rfl, id, ⟨by decide, rfl, rfl⟩, fun _ => rfl⟩

theorem resetContinue_settles (s : State) : Settles s s.resetContinue := by
  unfold State.resetContinue
  split
  case h_1 | h_3 => exact ⟨.control rfl rfl rfl rfl, id, ⟨by decide, rfl, rfl⟩, fun _ => rfl⟩
  case h_2 | h_4 =>
    exact judgePoll_settles _ ⟨.control rfl rfl rfl rfl, id, ⟨by decide, rfl, rfl⟩, fun _ => rfl⟩
  all_goals exact .ended (.control rfl rfl rfl rfl) rfl rfl

/-- `returnWord` changes the accumulator only, whatever the length. -/
theorem returnWord_eq_acc (len : Nat) (out : Word) (s : State) :
    ∃ a : Word, s.returnWord len out = { s with acc := a } := by
  unfold State.returnWord
  split
  · exact ⟨s.acc, rfl⟩
  · exact ⟨_, rfl⟩

theorem linkDone_settles (c : Caller) (len : Nat) (out : Word) (s : State) : Settles s (s.linkDone c len out) := by
  cases c with
  | transact =>
    obtain ⟨a, e⟩ := returnWord_eq_acc len out s
    rw [State.linkDone, State.endTransact, e]
    exact .ended (.control rfl rfl rfl rfl) rfl rfl
  | chipReset => exact resetContinue_settles s
  | _ => exact .ended (.control rfl rfl rfl rfl) rfl rfl

/-! ## The steps of the sequencer and of the machine -/

theorem gpioTick_continues (ph : GpioPhase) (s : State) : Continues s (s.gpioTick ph) := by
  cases ph with
  | func => exact (Continues.gpioFunc s).goTo _
  | dir => exact (Continues.gpioDir s).goTo _
  | low => exact (Continues.gpioLow s).finish _ _

theorem powerTick_continues (ph : PowerPhase) (s : State) : Continues s (s.powerTick ph) := by
  cases ph with
  | func0 => exact (Continues.setFunc .atest0 s).goTo _
  | dir0 => exact (Continues.setDir .atest0 s).goTo _
  | pull0 => exact (Continues.setPull .atest0 .none s).goTo _
  | func1 => exact (Continues.setFunc .atest1 s).goTo _
  | dir1 => exact (Continues.setDir .atest1 s).goTo _
  | pull1 => exact (Continues.setPull .atest1 .none s).goTo _
  | core => exact (Continues.drive .en1v8 _ s).goTo _
  | settle => exact .enterDelay _ s
  | deselect => exact (Continues.drive .csn _ s).goTo _
  | io => exact (Continues.drive .en3v3 _ s).finish _ _

/-- The end of a bit (42_transport R132): the clock falls, and the next bit or the trail delay follows. -/
theorem linkTick_fall (c : Caller) (len : Nat) (out : Word) (s : State) : s.linkTick c len out .fall =
    if s.bitidx.toNat = 0 then (s.drive .sclk false).goTo (.link c len out .trailWait)
    else ((s.drive .sclk false).setIndex (s.bitidx.toNat - 1)).goTo (.link c len out .drive) := rfl

theorem linkTick_continues (c : Caller) (len : Nat) (out : Word) (ph : LinkPhase) (s : State) :
    Continues s (s.linkTick c len out ph) := by
  cases ph with
  | load => exact .control rfl rfl rfl rfl
  | select => exact (Continues.drive .csn _ s).goTo _
  | drive => exact (Continues.drive .mosi _ s).goTo _
  | setupWait => exact .enterDelay _ s
  | rise => exact (Continues.drive .sclk _ s).goTo _
  | sample => exact (Continues.sampleInto _ s).goTo _
  | holdWait => exact .enterDelay _ s
  | fall =>
    rw [linkTick_fall]
    split <;> exact (Continues.drive .sclk false s).trans (.control rfl rfl rfl rfl)
  | trailWait => exact .enterDelay _ s
  | deselect => exact (Continues.drive .csn _ s).goTo _
  | done => exact (linkDone_settles c len out s).continues

/-- Every step of the sequencer. -/
theorem tick_continues (s : State) : Continues s s.tick := by
  unfold State.tick
  split
  · exact .refl s
  all_goals split
  · exact gpioTick_continues _ s
  · exact .control rfl rfl rfl rfl
  · exact powerTick_continues _ s
  · exact .control rfl rfl rfl rfl
  · exact linkTick_continues _ _ _ _ s
  · exact .control rfl rfl rfl rfl

/-- Every step of the machine: the invariants of the whole state go through this. -/
theorem step_continues {s t : State} (h : step s = .next t) : Continues s t := by
  rcases step_cases h with ⟨-, ⟨u, hu, hrun⟩ | ⟨-, -, rfl⟩⟩ | ⟨c, len, out, -, -, -, -, hrun⟩ | ⟨-, rfl⟩
  · have hsu : Continues s u := by
      obtain ⟨-, rfl⟩ | ⟨-, w, rest, -, rfl⟩ := hu
      · exact .refl u
      · exact .control rfl rfl rfl rfl
    obtain ⟨i, -, he⟩ | ⟨-, rfl⟩ := hrun
    · exact hsu.trans (exec_continues he)
    · exact hsu.finish _ _
  · exact .refl _
  · obtain ⟨-, he⟩ | ⟨-, i, -, he⟩ := hrun <;> exact exec_continues he
  · exact tick_continues s

/-! ## The rules of the state -/

/-- Settles O10, by `exec_continues` and `step_continues`. -/
theorem stepKeepsParams : Obligations.StepKeepsParams :=
  ⟨fun _ _ _ h => ⟨(exec_continues h).params, (exec_continues h).past⟩,
   fun _ _ h => ⟨(step_continues h).params, (step_continues h).past⟩⟩

/-- Settles O11, by `step_continues`. -/
theorem stepExtendsTrace : Obligations.StepExtendsTrace := by
  intro s t h
  obtain ⟨es, he⟩ := (step_continues h).trace
  exact ⟨es, he.symm⟩

/-- Initialised pins have one function and one direction each, so two such states agree in them. -/
theorem roles_eq_of_initialised {p q : Pins} (hp : pinsInitialised p) (hq : pinsInitialised q) (r : Role) :
    (q.ofRole r).dir = (p.ofRole r).dir ∧ (q.ofRole r).func = (p.ofRole r).func :=
  ⟨(hq.1 r).2.trans (hp.1 r).2.symm, (hq.1 r).1.trans (hp.1 r).1.symm⟩

/-- Settles O12: GPIO_INIT initialises the pins, and from then on every step and POWER_UP keep them initialised. -/
theorem pinRolesStayAfterInit : Obligations.PinRolesStayAfterInit := by
  refine ⟨fun s t h => ?_, fun s t hs h => ?_, fun s t hs h => ?_⟩
  · injection h with h
    rw [← h, State.finish_pins, gpioSteps_pins]
    exact pinsInitialised_initialisedPins s.pins
  · have hc := step_continues h
    exact ⟨roles_eq_of_initialised hs (hc.pins.initialised hs), hc.pins.initialised hs, hc.params⟩
  · exact roles_eq_of_initialised hs ((exec_continues h).pins.initialised hs)

/-- Settles O15: an operation of one transaction, GPIO_INIT and POWER_UP write neither register. -/
theorem onlyChipResetWritesRst : Obligations.OnlyChipResetWritesRst := by
  intro i s t hi h
  by_cases hf : i.isOneFrame = true
  · obtain ⟨out, levels, acc, seq, result, outcome, busy, -, -, -, -, rfl⟩ := oneFrame_eq hf h
    exact ⟨rfl, rfl⟩
  · cases i with
    | gpioInit =>
      obtain ⟨f, d, w, -, -, -, e⟩ := gpioSteps_eq s
      injection h with h
      rw [← h, e]
      exact ⟨rfl, rfl⟩
    | powerUp =>
      injection h with h
      rw [← h, raiseRails_eq]
      exact ⟨rfl, rfl⟩
    | chipReset => exact absurd rfl hi
    | _ => exact absurd rfl hf

end Sys2Proof.Machine
end

section
/-! PROOFS. The invariant of the machine: it holds at reset and every step keeps it. -/

namespace Sys2Proof.Machine

theorem runsOperation_link (c : Caller) (len : Nat) (out : Word) (ph : LinkPhase) :
    runsOperation (.link c len out ph) = (c != .frame) := by
  cases c <;> rfl

/-- A move that settles leads to a state that meets the invariant, if BUSY is 1 where the operation goes on. -/
theorem Settles.inv {s t : State} (h : Settles s t) (hd : s.dly = 0)
    (hpins : s.pins.extras.length = s.params.extraPins) (hb : runsOperation t.seq = true → s.busy = true) : t.Inv := by
  have houtside : ∀ c len out ph, t.seq = .link c len out ph → outsideWindow (.link c len out ph) :=
    fun _ _ _ _ hq => hq ▸ h.outside
  exact {
    busy_while_running := fun hr => (h.busy hr).trans (hb hr)
    timer_in_delay := by rw [h.timer hd]; exact Nat.zero_le _
    length_in_range := fun c len out ph hq => (houtside c len out ph hq).1
    index_in_range := fun c len out ph hq hph => by simp [(houtside c len out ph hq).2.1] at hph
    selected_in_window := fun c len out ph hq hph => by simp [(houtside c len out ph hq).2.2] at hph
    pins_fixed := by rw [h.continues.pins.extras, h.continues.params, hpins] }

/-! ## Moves inside a transaction -/

/-- A move from one micro-phase of a transaction to another keeps the invariant, if it leaves `BITIDX` and chip-select as the
new micro-phase has them. -/
theorem State.Inv.advance {s t : State} (h : s.Inv) {c : Caller} {len : Nat} {out : Word} {ph ph' : LinkPhase}
    (hs : s.seq = .link c len out ph) (ht : t.seq = .link c len out ph') (hc : Continues s t) (hbusy : t.busy = s.busy)
    (htimer : t.dly = 0) (hindex : insideBitLoop ph' = true → t.bitidx.toNat < len)
    (hsel : insideWindow ph' = true → t.pins.csn.out = s.params.active .csn) : t.Inv where
  busy_while_running hr := by
    rw [ht] at hr
    exact hbusy.trans (h.busy_while_running (by rw [hs, runsOperation_link, ← hr, runsOperation_link]))
  timer_in_delay := by rw [htimer]; exact Nat.zero_le _
  length_in_range c' len' out' ph'' hq := by
    obtain ⟨-, rfl, -, -⟩ := Seq.link.inj (ht.symm.trans hq)
    exact h.length_in_range _ _ _ _ hs
  index_in_range c' len' out' ph'' hq hph := by
    obtain ⟨-, rfl, -, rfl⟩ := Seq.link.inj (ht.symm.trans hq)
    exact hindex hph
  selected_in_window c' len' out' ph'' hq hph := by
    obtain ⟨-, -, -, rfl⟩ := Seq.link.inj (ht.symm.trans hq)
    rw [hc.params]
    exact hsel hph
  pins_fixed := by rw [hc.pins.extras, hc.params, h.pins_fixed]

theorem State.Inv.setDly {s : State} (h : s.Inv) {n : Nat} (hn : n ≤ s.dly) : (s.setDly n).Inv :=
  { h with timer_in_delay := hn.trans h.timer_in_delay }

theorem State.Inv.startDelay {s : State} (h : s.Inv) {n : Nat} (hn : delayAt s.params s.seq = some n) :
    (s.startDelay n).Inv :=
  { h with timer_in_delay := by simp [hn] }

/-- The position after a delay belongs to the same operation; in a transaction it is inside the window as the delay's was. -/
theorem State.Inv.passDelay {s : State} (h : s.Inv) : s.passDelay.Inv := by
  by_cases hd : s.dly = 0
  · rw [passDelay_of_over hd]
    have hc (q : Seq) : Continues s (s.goTo q) := (Continues.refl s).goTo q
    unfold afterDelay
    split
    case h_1 hs =>
      have hb : s.busy = true := h.busy_while_running (by rw [hs]; rfl)
      exact Settles.inv (s := s) ⟨hc _, id, trivial, fun _ => rfl⟩ hd h.pins_fixed fun _ => hb
    case h_4 hs => exact h.advance hs rfl (hc _) rfl hd nofun fun _ => h.selected_in_window _ _ _ _ hs rfl
    case h_5 => exact h
    case h_2 hs | h_3 hs =>
      exact h.advance hs rfl (hc _) rfl hd (fun _ => h.index_in_range _ _ _ _ hs rfl)
        fun _ => h.selected_in_window _ _ _ _ hs rfl
  · rwa [passDelay_of_running hd]

theorem State.Inv.countDown {s : State} (h : s.Inv) : s.countDown.Inv := (h.setDly (Nat.sub_le _ _)).passDelay

theorem State.Inv.enterDelay {s : State} (h : s.Inv) {n : Nat} (hn : delayAt s.params s.seq = some n) :
    (s.enterDelay n).Inv := (h.startDelay hn).passDelay

/-- The last bit's index (10_state R22) fits `BITIDX` for every length in range. -/
theorem lastIndex_lt {len : Nat} (h1 : 1 ≤ len) (h32 : len ≤ 32) : (BitVec.ofNat 6 (len - 1)).toNat < len := by
  simp only [BitVec.toNat_ofNat]
  omega

theorem State.Inv.linkTick {s : State} (h : s.Inv) {c : Caller} {len : Nat} {out : Word} {ph : LinkPhase}
    (hs : s.seq = .link c len out ph) (hd : s.dly = 0) : (s.linkTick c len out ph).Inv := by
  have hc := linkTick_continues c len out ph s
  have hindex := h.index_in_range c len out ph hs
  have hsel := h.selected_in_window c len out ph hs
  obtain ⟨h1, h32⟩ := h.length_in_range c len out ph hs
  cases ph with
  | load => exact h.advance hs rfl hc rfl hd (fun _ => lastIndex_lt h1 h32) nofun
  | select => exact h.advance hs rfl hc rfl hd (fun _ => hindex rfl) fun _ => rfl
  | drive => exact h.advance hs rfl hc rfl hd (fun _ => hindex rfl) fun _ => hsel rfl
  | setupWait => exact h.enterDelay (by rw [hs]; rfl)
  | rise => exact h.advance hs rfl hc rfl hd (fun _ => hindex rfl) fun _ => hsel rfl
  | sample => exact h.advance hs rfl hc rfl hd (fun _ => hindex rfl) fun _ => hsel rfl
  | holdWait => exact h.enterDelay (by rw [hs]; rfl)
  | fall =>
    rw [linkTick_fall] at hc ⊢
    by_cases hb : s.bitidx.toNat = 0 <;> simp only [hb, if_true, if_false] at hc ⊢
    · exact h.advance hs rfl hc rfl hd nofun fun _ => hsel rfl
    · refine h.advance hs rfl hc rfl hd (fun _ => ?_) fun _ => hsel rfl
      have := hindex rfl
      simp only [State.goTo_bitidx, State.setIndex_bitidx, BitVec.toNat_ofNat]
      omega
  | trailWait => exact h.enterDelay (by rw [hs]; rfl)
  | deselect => exact h.advance hs rfl hc rfl hd nofun nofun
  | done =>
    refine (linkDone_settles c len out s).inv hd h.pins_fixed fun hr => h.busy_while_running ?_
    rw [hs]
    cases c with
    | frame => exact hr
    | _ => rfl

theorem State.Inv.gpioTick {s : State} (h : s.Inv) {ph : GpioPhase} (hs : s.seq = .gpioInit ph) (hd : s.dly = 0) :
    (s.gpioTick ph).Inv := by
  have hc := gpioTick_continues ph s
  have hb : s.busy = true := h.busy_while_running (by rw [hs]; rfl)
  refine Settles.inv ?_ hd h.pins_fixed fun _ => hb
  cases ph with
  | low => exact .ended hc rfl rfl
  | _ => exact ⟨hc, id, trivial, fun _ => rfl⟩

theorem State.Inv.powerTick {s : State} (h : s.Inv) {ph : PowerPhase} (hs : s.seq = .powerUp ph) (hd : s.dly = 0) :
    (s.powerTick ph).Inv := by
  by_cases hp : ph = .settle
  · subst hp
    exact h.enterDelay (by rw [hs]; rfl)
  · have hc := powerTick_continues ph s
    have hb : s.busy = true := h.busy_while_running (by rw [hs]; rfl)
    refine Settles.inv ?_ hd h.pins_fixed fun _ => hb
    cases ph with
    | settle => exact absurd rfl hp
    | io => exact .ended hc rfl rfl
    | _ => exact ⟨hc, id, trivial, fun _ => rfl⟩

/-- At IDLE the timer does not run (60_exceptions R206). -/
theorem State.Inv.timer_idle {s : State} (h : s.Inv) (hs : s.seq = .idle) : s.dly = 0 :=
  Nat.le_zero.1 (by simpa [hs, delayAt] using h.timer_in_delay)

theorem State.Inv.tick {s : State} (h : s.Inv) : s.tick.Inv := by
  by_cases hd : s.dly = 0
  · cases hs : s.seq with
    | idle => rwa [show s.tick = s by rw [State.tick, hs]]
    | gpioInit ph => rw [tick_gpio hs hd]; exact h.gpioTick hs hd
    | powerUp ph => rw [tick_power hs hd]; exact h.powerTick hs hd
    | link c len out ph => rw [tick_link hs hd]; exact h.linkTick hs hd
  · have hs : s.seq ≠ .idle := fun hs => hd (h.timer_idle hs)
    rw [tick_of_dly hd hs]
    exact h.countDown

/-! ## The step -/

theorem runsOperation_of_afterFrame {q : Seq} (h : runsOperation (seqAfterFrame q) = true) : runsOperation q = true := by
  unfold seqAfterFrame at h
  split at h
  · exact h
  · rwa [runsOperation_link] at h ⊢
  · exact h

/-- After a bare frame or a frame of a caller the sequencer stands where `seqAfterFrame` says (42_transport R144, log 9). -/
theorem frame_seq {i : Instr} {s t : State} (hk : i.isCommand = false) (h : exec i s = .next t) :
    t.seq = seqAfterFrame s.seq := by
  have hi : i.isOneFrame = true := by
    cases i <;> simp_all [Instr.isCommand, Instr.isOneFrame]
  obtain ⟨out, levels, acc, seq, result, outcome, busy, -, -, -, hframe, rfl⟩ := oneFrame_eq hi h
  exact (hframe hk).1

theorem decodeFrame_isCommand {len : Nat} {out : Word} {i : Instr} (h : decodeFrame len out = .instr i) :
    i.isCommand = false := by
  obtain ⟨-, a, rfl⟩ | ⟨-, ⟨a, rfl⟩ | ⟨a, d, rfl⟩⟩ := decodeFrame_cases h <;> rfl

/-- Accepting a word at IDLE keeps the invariant. -/
theorem State.Inv.accepted {s : State} (h : s.Inv) (w : CmdWord) (rest : List CmdWord) : (accepted s w rest).Inv :=
  { h with busy_while_running := fun _ => rfl }

/-- Settles O9: by what a step can be (`step_cases`); a command or a frame settles outside the window, and a step of the
sequencer keeps the invariant micro-phase by micro-phase. -/
theorem stepKeepsInv : Obligations.StepKeepsInv := by
  intro s t h hstep
  rcases step_cases hstep with ⟨hs, ⟨u, hu, hrun⟩ | ⟨-, -, rfl⟩⟩ | ⟨c, len, out, hs, hd, h1, h32, hrun⟩ | ⟨-, rfl⟩
  · obtain ⟨hinv, hseq, hbusy⟩ : u.Inv ∧ u.seq = .idle ∧ u.busy = true := by
      obtain ⟨hb, rfl⟩ | ⟨-, w, rest, -, rfl⟩ := hu
      · exact ⟨h, hs, hb⟩
      · exact ⟨h.accepted w rest, hs, rfl⟩
    refine Settles.inv ?_ (hinv.timer_idle hseq) hinv.pins_fixed fun _ => hbusy
    obtain ⟨i, -, he⟩ | ⟨-, rfl⟩ := hrun
    · exact exec_settles (hinv.timer_idle hseq) (hseq ▸ trivial) he
    · exact .ended (.control rfl rfl rfl rfl) rfl rfl
  · exact h
  · have hout : outsideWindow s.seq := hs ▸ ⟨⟨h1, h32⟩, rfl, rfl⟩
    obtain ⟨rfl, he⟩ | ⟨-, i, hf, he⟩ := hrun
    · exact (exec_settles hd hout he).inv hd h.pins_fixed fun _ => h.busy_while_running (hs ▸ rfl)
    · refine (exec_settles hd hout he).inv hd h.pins_fixed fun hr => h.busy_while_running ?_
      rw [frame_seq (decodeFrame_isCommand hf) he] at hr
      exact runsOperation_of_afterFrame hr
  · exact h.tick

/-- Settles O8: reset leaves the machine at IDLE with DLY 0, and as many pins without a role as the parameters say. -/
theorem resetMeetsInv : Obligations.ResetMeetsInv where
  busy_while_running := nofun
  timer_in_delay := Nat.le_refl 0
  length_in_range := nofun
  index_in_range := nofun
  selected_in_window := nofun
  pins_fixed := by simp [State.reset, State.afterReset, Pins.afterReset]

end Sys2Proof.Machine
end

section
/-! PROOFS. The step, the delay timer and the host port: what one step is at each position, and how a delay passes. -/

namespace Sys2Proof.Machine

/-! ## What one step is -/

/-- Away from IDLE and from `T_LOAD` with the timer at 0, a step is one step of the sequencer. -/
theorem step_eq_tick {s : State} (hs : s.seq ≠ .idle) (hl : ∀ c len out, s.seq = .link c len out .load → s.dly ≠ 0) :
    step s = .next s.tick := by
  have hf : s.fetch = .settled s.tick := by
    unfold State.fetch
    split
    · exact absurd ‹_› hs
    · rw [if_neg (hl _ _ _ ‹_›)]
    · rfl
  rw [step, hf]

/-- At `T_LOAD` with the timer at 0 a step is what `fetchFrame` finds. -/
theorem fetch_load {s : State} {c : Caller} {len : Nat} {out : Word} (hs : s.seq = .link c len out .load)
    (hd : s.dly = 0) : s.fetch = s.fetchFrame c len out := by
  unfold State.fetch
  rw [hs]
  exact if_pos hd

/-- While the timer runs a step counts down; the tick that brings DLY to 0 moves SEQ past the delay (10_state R26). -/
theorem step_of_dly {s : State} (hs : s.seq ≠ .idle) (hd : s.dly ≠ 0) :
    step s = .next { s with dly := s.dly - 1, seq := if s.dly = 1 then afterDelay s.seq else s.seq } := by
  have h1 : s.dly - 1 = 0 ↔ s.dly = 1 := by omega
  rw [step_eq_tick hs fun _ _ _ _ => hd, tick_of_dly hd hs]
  simp only [State.countDown, State.passDelay, State.setDly, State.goTo, h1]

/-- Settles O18, by `step_eq_tick`, `fetch_load` and `step_of_dly`. -/
theorem stepOtherwiseTicks : Obligations.StepOtherwiseTicks := by
  refine ⟨fun s ph hs => ?_, fun s ph hs => ?_, fun s c len out ph hs hp => ?_,
    fun s c len out why hs hd hc h1 h32 hf => ?_, fun s c len out hs hd => ⟨fun h0 => ?_, fun h32 => ?_⟩,
    fun s => step_of_dly⟩
  · exact step_eq_tick (by simp [hs]) (by simp [hs])
  · exact step_eq_tick (by simp [hs]) (by simp [hs])
  · refine step_eq_tick (by simp [hs]) fun c' len' out' hl => hp.resolve_left fun hn => hn ?_
    exact (Seq.link.inj (hs.symm.trans hl)).2.2.2
  · rw [step, fetch_load hs hd, State.fetchFrame, if_neg (by omega), if_neg (by omega), if_neg hc, hf]
  · rw [step, fetch_load hs hd, State.fetchFrame, if_pos h0]
  · rw [step, fetch_load hs hd, State.fetchFrame, if_neg (by omega), if_pos h32]

/-- At IDLE a step is what `fetchCommand` finds. -/
theorem fetch_idle {s : State} (hs : s.seq = .idle) : s.fetch = s.fetchCommand := by
  unfold State.fetch
  rw [hs]

theorem startCommand_of_instr {s : State} {i : Instr} (h : decodeCommand s.cmd = .instr i) :
    s.startCommand = .run i s := by
  rw [State.startCommand, h]

/-- Settles O16: at IDLE the latched word, or the host's next once it is latched, is what `startCommand` decodes. -/
theorem stepRunsCommand : Obligations.StepRunsCommand := by
  refine ⟨fun s w rest i hs hb hh hdec => ?_, fun s i hs hb hdec => ?_⟩
  · have hrun : s.fetchCommand = .run i (accepted s w rest) := by
      rw [State.fetchCommand, hb, if_neg (by decide), hh]
      exact startCommand_of_instr hdec
    rw [step, fetch_idle hs, hrun]
    rfl
  · rw [step, fetch_idle hs, State.fetchCommand, if_pos hb, startCommand_of_instr hdec]

/-! ## A delay -/

theorem seq_ne_of_delay {p : Params} {q : Seq} {t : Nat} (h : delayAt p q = some t) :
    q ≠ .idle ∧ ∀ c len out, q ≠ .link c len out .load := by
  constructor
  · rintro rfl; cases h
  · rintro c len out rfl; cases h

/-- The first step of a delay loads the timer (10_state R26). -/
theorem step_enterDelay {s : State} {t : Nat} (hd : s.dly = 0) (h : delayAt s.params s.seq = some t) :
    step s = .next (s.enterDelay t) := by
  obtain ⟨hi, hl⟩ := seq_ne_of_delay h
  rw [step_eq_tick hi fun c len out hq => absurd hq (hl c len out)]
  unfold delayAt at h
  split at h
  case h_1 hs => rw [tick_power hs hd]; injection h with h; rw [← h]; rfl
  case h_5 => cases h
  all_goals next hs => rw [tick_link hs hd]; injection h with h; rw [← h]; rfl

/-- A tick that is not the last only counts down (10_state R26). -/
theorem step_countDown {s : State} (hs : s.seq ≠ .idle) (n : Nat) :
    step (s.setDly (n + 2)) = .next (s.setDly (n + 1)) :=
  step_of_dly (s := s.setDly (n + 2)) hs (Nat.succ_ne_zero _)

/-- The last tick moves SEQ past the delay (10_state R26, R45). -/
theorem step_lastTick {s : State} (hs : s.seq ≠ .idle) :
    step (s.setDly 1) = .next ((s.setDly 0).goTo (afterDelay s.seq)) :=
  step_of_dly (s := s.setDly 1) hs Nat.one_ne_zero

/-- As long as ticks are left, only the timer moves. -/
theorem run_countDown {s : State} (hs : s.seq ≠ .idle) (m k : Nat) :
    core.run k (s.setDly (m + k + 1)) = .next (s.setDly (m + 1)) := by
  induction k with
  | zero => rfl
  | succ k ih => exact (run_succ k (step_countDown hs (m + k))).trans ih

/-- All the ticks of a running timer end the delay. -/
theorem run_allTicks {s : State} (hs : s.seq ≠ .idle) (n : Nat) :
    core.run (n + 1) (s.setDly (n + 1)) = .next ((s.setDly 0).goTo (afterDelay s.seq)) := by
  induction n with
  | zero => exact run_succ 0 (step_lastTick hs)
  | succ n ih => exact (run_succ (n + 1) (step_countDown hs n)).trans ih

/-- Settles O60: the first step loads the timer, `run_countDown` and `run_allTicks` say what its ticks do. -/
theorem delayHoldsPosition : Obligations.DelayHoldsPosition := by
  intro s t hd h
  have hi := (seq_ne_of_delay h).1
  have hstep := step_enterDelay hd h
  cases t with
  | zero => exact ⟨nofun, run_succ 0 hstep⟩
  | succ n =>
    rw [State.enterDelay, passDelay_of_running (Nat.succ_ne_zero n)] at hstep
    refine ⟨fun k hk => ?_, (run_succ (n + 1) hstep).trans (run_allTicks (s := s.startDelay (n + 1)) hi n)⟩
    obtain ⟨m, rfl⟩ : ∃ m, n = m + k := ⟨n - k, by omega⟩
    rw [show m + k + 1 - k = m + 1 by omega]
    exact (run_succ k hstep).trans (run_countDown (s := s.startDelay (m + k + 1)) hi m k)

/-! ## Reset and the host port -/

/-- Settles O6: the fields of `State.afterReset`. -/
theorem resetLeavesControlIdle : Obligations.ResetLeavesControlIdle :=
  ⟨rfl, rfl, rfl, rfl, rfl, rfl, rfl, rfl⟩

/-- A byte put together from fields of 2, 3, 2 and 1 bits has them in these places (10_state R29). -/
theorem fields_of_append (r : BitVec 3) (o : BitVec 2) (b : Bool) :
    let v : BitVec 8 := 0#2 ++ r ++ o ++ BitVec.ofBool b
    v.extractLsb' 0 1 = BitVec.ofBool b ∧ v.extractLsb' 1 2 = o ∧ v.extractLsb' 3 3 = r ∧ v.extractLsb' 6 2 = 0 := by
  revert r o b
  decide

/-- Settles O21, field by field. -/
theorem statLayout : Obligations.StatLayout := by
  intro s
  obtain ⟨hbusy, houtcome, hrst, hreserved⟩ := fields_of_append s.rst.code s.outcome.code s.busy
  refine ⟨hbusy.trans ?_, houtcome.trans ?_, hrst.trans ?_, hreserved⟩
  · cases s.busy <;> rfl
  · cases s.outcome <;> rfl
  · cases s.rst <;> rfl

/-- Settles O22, register by register. -/
theorem hostPortAccess : Obligations.HostPortAccess := by
  refine ⟨fun s w hb => ?_, fun s w hb => ?_, fun s n w hn => ?_, fun s => ⟨rfl, rfl⟩, fun s n hn => ?_⟩
  · show (if s.busy then _ else _) = _
    rw [hb]
    rfl
  · exact if_pos hb
  · match n with
    | 0 => exact absurd rfl hn
    | 1 | 2 | _ + 3 => exact ⟨_, rfl⟩
  · match n with
    | _ + 3 => rfl

end Sys2Proof.Machine
end

section
/-! PROOFS. Refinement: an operation run as a whole is the same operation run one primitive at a time. -/

namespace Sys2Proof.Machine

theorem goTo_self {q : Seq} {s : State} (h : s.seq = q) : s.goTo q = s := by
  subst h
  rfl

/-! The end of an inner TRANSACT does not depend on the position it is reached at. -/

theorem endTransact_goTo (len : Nat) (out : Word) (q : Seq) (s : State) :
    (s.goTo q).endTransact len out = s.endTransact len out := by
  unfold State.endTransact State.returnWord
  split <;> rfl

theorem judgePoll_goTo (sentinel : Value) (phase : Bool) {matched : State → State}
    (hm : ∀ q t, matched (t.goTo q) = matched t) (q : Seq) (s : State) :
    (s.goTo q).judgePoll sentinel phase matched = s.judgePoll sentinel phase matched := by
  unfold State.judgePoll
  rw [← hm q (s.setPolls (s.pollcnt + 1))]
  rfl

theorem resetContinue_goTo (q : Seq) (s : State) : (s.goTo q).resetContinue = s.resetContinue := by
  unfold State.resetContinue
  rw [State.goTo_rst]
  split
  case h_2 | h_4 => exact judgePoll_goTo _ _ (fun _ _ => rfl) q s
  all_goals rfl

theorem linkDone_goTo (c : Caller) (len : Nat) (out : Word) (q : Seq) (s : State) :
    (s.goTo q).linkDone c len out = s.linkDone c len out := by
  cases c with
  | transact => exact endTransact_goTo len out q s
  | chipReset => exact resetContinue_goTo q s
  | _ => rfl

theorem transaction_dly {len : Nat} (out : Word) (s : State) (h1 : 1 ≤ len) (h32 : len ≤ 32) :
    (s.transaction len out).dly = 0 := by
  obtain ⟨levels, -, -, e⟩ := transaction_eq len out s h1 h32
  rw [e, afterWindow_dly]

/-- From `T_LOAD` the sequencer's steps lead through the transaction to what its caller does at its end. -/
theorem reaches_linkDone (c : Caller) {len : Nat} (out : Word) {s : State} (h1 : 1 ≤ len) (h32 : len ≤ 32)
    (hd : s.dly = 0) :
    Reaches (s.goTo (.link c len out .load)) ((s.transaction len out).linkDone c len out) := by
  have hdone := Reaches.link c len out .done (transaction_dly out s h1 h32)
  rw [show ∀ t : State, t.linkTick c len out .done = t.linkDone c len out from fun _ => rfl, linkDone_goTo] at hdone
  exact (reaches_transaction c len out s h1 h32 hd).trans hdone

theorem Reaches.gpio {s : State} (ph : GpioPhase) (h : s.dly = 0) :
    Reaches (s.goTo (.gpioInit ph)) ((s.goTo (.gpioInit ph)).gpioTick ph) :=
  ⟨1, tick_gpio (s := s.goTo _) rfl h⟩

theorem gpioFunc_goTo (q : Seq) (s : State) : (s.goTo q).gpioFunc = s.gpioFunc.goTo q := rfl
theorem gpioDir_goTo (q : Seq) (s : State) : (s.goTo q).gpioDir = s.gpioDir.goTo q := rfl

/-- The three steps of GPIO_INIT (40_gpio_init R110). -/
theorem reaches_gpioInit {s : State} (hd : s.dly = 0) :
    Reaches (s.goTo (.gpioInit .func)) (s.gpioFunc.gpioDir.gpioLow.finish .ok 0) := by
  refine Reaches.trans (Reaches.gpio .func hd) ?_
  simp only [State.gpioTick, gpioFunc_goTo, goTo_goTo]
  refine Reaches.trans (Reaches.gpio .dir hd) ?_
  simp only [State.gpioTick, gpioDir_goTo, goTo_goTo]
  exact Reaches.gpio .low hd

/-- The ten primitives of POWER_UP (41_power_seq R120). -/
theorem reaches_powerUp {s : State} (hd : s.dly = 0) :
    Reaches (s.goTo (.powerUp .func0)) (s.raiseRails.finish .ok 0) := by
  refine Reaches.trans (Reaches.power .func0 hd) ?_
  simp only [State.powerTick, setFunc_goTo, goTo_goTo]
  refine Reaches.trans (Reaches.power .dir0 (by simpa using hd)) ?_
  simp only [State.powerTick, setDir_goTo, goTo_goTo]
  refine Reaches.trans (Reaches.power .pull0 (by simpa using hd)) ?_
  simp only [State.powerTick, setPull_goTo, goTo_goTo]
  refine Reaches.trans (Reaches.power .func1 (by simpa using hd)) ?_
  simp only [State.powerTick, setFunc_goTo, goTo_goTo]
  refine Reaches.trans (Reaches.power .dir1 (by simpa using hd)) ?_
  simp only [State.powerTick, setDir_goTo, goTo_goTo]
  refine Reaches.trans (Reaches.power .pull1 (by simpa using hd)) ?_
  simp only [State.powerTick, setPull_goTo, goTo_goTo]
  refine Reaches.trans (Reaches.power .core (by simpa using hd)) ?_
  simp only [State.powerTick, assertPin_goTo, goTo_goTo]
  refine Reaches.trans (Reaches.power .settle (by simpa using hd)) ?_
  refine Reaches.trans (Reaches.delay _ (by simp)) ?_
  simp only [delay_goTo, goTo_goTo, State.goTo_params, State.goTo_seq, afterDelay, State.assertPin_params,
    State.setPull_params, State.setDir_params, State.setFunc_params]
  refine Reaches.trans (Reaches.power .deselect (State.delay_dly _ _)) ?_
  simp only [State.powerTick, deassertPin_goTo, goTo_goTo]
  exact Reaches.power .io rfl

/-! ## CHIP_RESET -/

/-- From before a transaction of CHIP_RESET the sequencer's steps lead through it. -/
theorem reaches_resetTransaction {s : State} {w : Word} (hs : s.seq = .link .chipReset 24 w .load) (hd : s.dly = 0) :
    Reaches s (s.resetTransaction w) := by
  have h := reaches_linkDone .chipReset w (s := s) (len := 24) (by omega) (by omega) hd
  rwa [goTo_self hs] at h

theorem resetTransaction_dly (w : Word) (s : State) : (s.resetTransaction w).dly = 0 :=
  (resetContinue_settles _).timer (transaction_dly w s (by omega) (by omega))

theorem pollEnable_seq {s : State} (h : s.rst = .enabling) (hm : (s.resetTransaction s.pollFrame).rst = .confirmedEnabled) :
    (s.resetTransaction s.pollFrame).seq = .link .chipReset 24 s.pollFrame .done := by
  obtain ⟨levels, -, -, e⟩ := pollB_eq s h
  rw [e] at hm ⊢
  split
  case isTrue => rfl
  case isFalse hne =>
    rw [if_neg hne] at hm
    split at hm <;> simp [pollFailed, pollMissed, h] at hm

theorem pollDisable_seq {s : State} (h : s.rst = .disabling) (hm : (s.resetTransaction s.pollFrame).rst = .confirmedDisabled) :
    (s.resetTransaction s.pollFrame).seq =
      .link .chipReset 24 ((s.resetTransaction s.pollFrame).sentinelFrame sentinelB) .load := by
  obtain ⟨levels, -, -, e⟩ := pollA_eq s h
  rw [e] at hm ⊢
  split
  case isTrue => rfl
  case isFalse hne =>
    rw [if_neg hne] at hm
    split at hm <;> simp [pollFailed, pollMissed, h] at hm

theorem reaches_pollEnable {s : State} (hs : s.seq = .link .chipReset 24 s.pollFrame .load) (hd : s.dly = 0)
    (hr : s.rst = .enabling) : Reaches s s.pollEnable := by
  have h := reaches_resetTransaction hs hd
  unfold State.pollEnable
  dsimp only
  split
  case isTrue hm =>
    have hend := Reaches.link .chipReset 24 s.pollFrame .done (resetTransaction_dly s.pollFrame s)
    rw [goTo_self (pollEnable_seq hr hm)] at hend
    exact h.trans hend
  case isFalse => exact h

theorem reaches_enablePhase {s : State} (hs : s.seq = .link .chipReset 24 (s.sentinelFrame sentinelB) .load)
    (hd : s.dly = 0) (hr : s.rst = .confirmedDisabled) : Reaches s s.enablePhase := by
  have h := reaches_resetTransaction hs hd
  obtain ⟨levels, -, -, e⟩ := writeB_eq s hr
  rw [State.enablePhase]
  rw [e] at h ⊢
  exact h.trans (reaches_pollEnable rfl rfl rfl)

theorem reaches_pollDisable {s : State} (hs : s.seq = .link .chipReset 24 s.pollFrame .load) (hd : s.dly = 0)
    (hr : s.rst = .disabling) : Reaches s s.pollDisable := by
  have h := reaches_resetTransaction hs hd
  unfold State.pollDisable
  dsimp only
  split
  case isTrue hm =>
    exact h.trans (reaches_enablePhase (pollDisable_seq hr hm) (resetTransaction_dly _ s) hm)
  case isFalse => exact h

theorem reaches_disablePhase {s : State} (hs : s.seq = .link .chipReset 24 (s.sentinelFrame sentinelA) .load)
    (hd : s.dly = 0) (hr : s.rst = .idle) : Reaches s s.disablePhase := by
  have h := reaches_resetTransaction hs hd
  obtain ⟨levels, -, -, e⟩ := writeA_eq s hr
  rw [State.disablePhase]
  rw [e] at h ⊢
  exact h.trans (reaches_pollDisable rfl rfl rfl)

/-! ## Every instruction -/

/-- A bare frame (log 9): at its `T_DONE` the sequencer goes to IDLE. -/
theorem reaches_sendFrame {len : Nat} (out : Word) {s : State} (h1 : 1 ≤ len) (h32 : len ≤ 32) (hs : s.seq = .idle)
    (hd : s.dly = 0) : Reaches (s.goTo (.link .frame len out .load)) (s.sendFrame len out) := by
  have hidle : seqAfterFrame s.seq = .idle := by rw [hs]; rfl
  rw [State.sendFrame, hidle]
  exact reaches_linkDone .frame out h1 h32 hd

/-- An instruction that is refused out of contract and answers a next state has answered the one in contract. -/
theorem eq_of_guarded {b : Bool} {r : Refusal} {u t : State}
    (h : (if b then Host.Outcome.next (φ := Fault) u else .refused r) = .next t) : u = t := by
  cases b with
  | true => injection h
  | false => cases h

/-- TRANSACT answers a next state for a length of 1 to 32 only (93 U1, U2; log 8). -/
theorem execTransact_next {len : BitVec 8} {out : Word} {s t : State} (h : execTransact len out s = .next t) :
    1 ≤ len.toNat ∧ len.toNat ≤ 32 ∧ (s.transaction len.toNat out).endTransact len.toNat out = t := by
  unfold execTransact at h
  split at h
  · cases h
  · split at h
    · cases h
    · injection h with h
      exact ⟨by omega, by omega, h⟩

/-- Settles O59: the operations and frames of one transaction by `reaches_linkDone`, the others phase by phase. -/
theorem ticksReachExec : Obligations.TicksReachExec := by
  intro i s t hs hd h
  cases i with
  | gpioInit => injection h with h; exact h ▸ reaches_gpioInit hd
  | powerUp => injection h with h; exact h ▸ reaches_powerUp hd
  | transact len out =>
    obtain ⟨h1, h32, rfl⟩ := execTransact_next h
    exact reaches_linkDone .transact out h1 h32 hd
  | regRead addr => exact eq_of_guarded h ▸ reaches_linkDone .regRead (readWord addr) (by decide) (by decide) hd
  | regWrite addr value =>
    exact eq_of_guarded h ▸ reaches_linkDone .regWrite (writeWord addr value) (by decide) (by decide) hd
  | status => injection h with h; exact h ▸ reaches_linkDone .status statusWord (by decide) (by decide) hd
  | strobe addr => exact eq_of_guarded h ▸ reaches_linkDone .strobe (strobeWord addr) (by decide) (by decide) hd
  | chipReset =>
    rw [exec, execChipReset, if_neg (by rw [hs]; decide)] at h
    injection h with h
    rw [← h]
    exact reaches_disablePhase rfl hd rfl
  | f8Select addr => injection h with h; exact h ▸ reaches_sendFrame _ (by decide) (by decide) hs hd
  | f24Read addr => injection h with h; exact h ▸ reaches_sendFrame _ (by decide) (by decide) hs hd
  | f24Write addr data => injection h with h; exact h ▸ reaches_sendFrame _ (by decide) (by decide) hs hd

end Sys2Proof.Machine
end

section
/-! PROOFS. Encodings: the words of the command rows and of the wire frames, written and read back. -/

namespace Sys2Proof

open Sys2Proof.Machine

/-! ## Frame words from their fields (30_encoding R88, R89) -/

/-- A word put in the low bits of a wider one is read back from there. -/
theorem setWidth_of_widened {n m : Nat} (w : BitVec n) (h : n ≤ m) : (w.setWidth m).setWidth n = w := by
  rw [BitVec.setWidth_setWidth_of_le _ h, BitVec.setWidth_eq]

/-- A 7-bit address reaches the output word as it is. -/
theorem strobeWord_addrField (a : Addr) : strobeWord (addrField a) = a.setWidth 32 :=
  BitVec.setWidth_setWidth (by decide)

theorem writeWord_addrField (a : Addr) (v : Value) :
    writeWord (addrField a) v = (a.setWidth 32 <<< 16) ||| v.setWidth 32 := by
  rw [writeWord, ← strobeWord, strobeWord_addrField]

/-- `ADDR | READ_FLAG` is the read flag 1 above the address (30_encoding R91). -/
theorem addrField_or_readFlag (a : Addr) : addrField a ||| readFlag = 1#1 ++ a := by
  revert a
  decide

theorem setWidth_zero_append (a : Addr) {n : Nat} : (0#1 ++ a).setWidth n = a.setWidth n := by
  rw [BitVec.setWidth_append_eq_shiftLeft_setWidth_or]
  simp

theorem readWord_eq_frame (a : Addr) : readWord (addrField a) = (1#1 ++ a ++ 0#16).setWidth 32 := by
  rw [readWord, addrField_or_readFlag, BitVec.setWidth_append_eq_shiftLeft_setWidth_or (b' := 0#16),
    BitVec.setWidth_zero, BitVec.or_zero]

theorem writeWord_eq_frame (a : Addr) (v : Value) : writeWord (addrField a) v = (0#1 ++ a ++ v).setWidth 32 := by
  rw [writeWord_addrField, BitVec.setWidth_append_eq_shiftLeft_setWidth_or, setWidth_zero_append]

/-- Settles O5: each output word holds its frame in the low bits. -/
theorem frameWordLayout : Obligations.FrameWordLayout := by
  refine ⟨fun a => ?_, fun a => ?_, fun a v => ?_⟩
  · rw [strobeWord_addrField, ← setWidth_zero_append, setWidth_of_widened _ (by decide)]
  · rw [readWord_eq_frame, setWidth_of_widened _ (by decide)]
  · rw [writeWord_eq_frame, setWidth_of_widened _ (by decide)]

theorem encode_f8Select (a : Addr) : encode (.f8Select a) = (0#1 ++ a).setWidth 48 :=
  (setWidth_zero_append a).symm

theorem frame24_eq_append (rf : BitVec 1) (a : Addr) (d : Value) : frame24 rf a d = (rf ++ a ++ d).setWidth 48 := by
  rw [BitVec.setWidth_append_append_eq_shiftLeft_setWidth_or, frame24]

/-! ## The frame decoders -/

/-- A word is its top bit and the rest. -/
theorem topBit_append {n : Nat} (w : BitVec (1 + n)) : BitVec.ofBool (w.getLsbD n) ++ w.extractLsb' 0 n = w := by
  have htop : w.extractLsb' n 1 = BitVec.ofBool (w.getLsbD n) := by
    apply BitVec.eq_of_getLsbD_eq
    intro i hi
    obtain rfl : i = 0 := by omega
    simp
  rw [← htop]
  exact BitVec.extractLsb'_append_extractLsb'

theorem decodeF8_append (a : Addr) : decodeF8 (0#1 ++ a) = .instr (.f8Select a) := by
  revert a
  decide

/-- An 8-bit frame that decodes has the read flag 0 (30_encoding R88). -/
theorem decodeF8_cases {w : BitVec 8} {i : Instr} (h : decodeF8 w = .instr i) :
    ∃ a, w = 0#1 ++ a ∧ i = .f8Select a := by
  unfold decodeF8 at h
  have hw := topBit_append (n := 7) w
  split at h
  case isTrue => cases h
  case isFalse hrf =>
    rw [Bool.eq_false_of_not_eq_true hrf] at hw
    injection h with h
    exact ⟨_, hw.symm, h.symm⟩

/-- A 24-bit frame is its read flag, its address and its data (30_encoding R89). -/
theorem frame24_fields (w : BitVec 24) :
    BitVec.ofBool (w.getLsbD 23) ++ w.extractLsb' 16 7 ++ w.extractLsb' 0 16 = w := by
  have hlow : w.extractLsb' 0 23 = w.extractLsb' 16 7 ++ w.extractLsb' 0 16 :=
    (BitVec.extractLsb'_append_extractLsb'_eq_extractLsb' (start₁ := 0) (len₁ := 16) rfl).symm
  have hw := topBit_append (n := 23) w
  rw [hlow] at hw
  rw [BitVec.append_assoc]
  exact hw

theorem decodeF24_append (rf : Bool) (a : Addr) (d : Value) : decodeF24 (BitVec.ofBool rf ++ a ++ d) =
    if rf then if d = 0 then .instr (.f24Read a) else .rejected .rawFrame else .instr (.f24Write a d) := by
  have hrf : (BitVec.ofBool rf ++ a ++ d).getLsbD 23 = rf := by
    rw [BitVec.getLsbD_append, BitVec.getLsbD_append]
    simp
  have ha : (BitVec.ofBool rf ++ a ++ d).extractLsb' 16 7 = a := by
    rw [BitVec.extractLsb'_append_eq_of_le (by decide)]
    exact BitVec.extractLsb'_append_eq_right
  rw [decodeF24, hrf, ha, BitVec.extractLsb'_append_eq_right]

/-- A 24-bit frame that decodes is a read with a data phase of zeros, or a write (30_encoding R89, 93 U15). -/
theorem decodeF24_cases {w : BitVec 24} {i : Instr} (h : decodeF24 w = .instr i) :
    (∃ a, w = 1#1 ++ a ++ 0#16 ∧ i = .f24Read a) ∨ ∃ a d, w = 0#1 ++ a ++ d ∧ i = .f24Write a d := by
  unfold decodeF24 at h
  have hw := frame24_fields w
  split at h
  case isTrue hrf =>
    split at h
    case isTrue hd =>
      rw [hrf, hd] at hw
      injection h with h
      exact .inl ⟨_, hw.symm, h.symm⟩
    case isFalse => cases h
  case isFalse hrf =>
    rw [Bool.eq_false_of_not_eq_true hrf] at hw
    injection h with h
    exact .inr ⟨_, _, hw.symm, h.symm⟩

/-- The table's decoder takes a frame from the low bits. -/
theorem decodeTable_f8 (w : BitVec 8) : decodeTable 8 (w.setWidth 48) = decodeF8 w := by
  show decodeF8 (((w.setWidth 48).setWidth 32).setWidth 8) = _
  rw [BitVec.setWidth_setWidth_of_le _ (by decide), setWidth_of_widened _ (by decide)]

theorem decodeTable_f24 (w : BitVec 24) : decodeTable 24 (w.setWidth 48) = decodeF24 w := by
  show decodeF24 (((w.setWidth 48).setWidth 32).setWidth 24) = _
  rw [BitVec.setWidth_setWidth_of_le _ (by decide), setWidth_of_widened _ (by decide)]

/-! ## Command words -/

/-- A 16-bit value in a data word leaves `DATA[31:16]` 0 and can be read back (30_encoding R83). -/
theorem value_in_data (v : Value) :
    (v.setWidth 32 : Word) >>> 16 = 0 ∧ (v.setWidth 32 : Word).extractLsb' 0 16 = v := by
  constructor
  · apply BitVec.eq_of_getLsbD_eq
    intro i hi
    rw [BitVec.getLsbD_ushiftRight, BitVec.getLsbD_setWidth, BitVec.getLsbD_of_ge v _ (by omega)]
    simp
  · rw [BitVec.extractLsb'_setWidth_of_le (by decide), BitVec.extractLsb'_eq_self]

/-- A data word whose upper half is 0 is its lower half. -/
theorem lowHalf_of_upper_zero {d : Word} (h : d.extractLsb' 16 16 = 0) : (d.extractLsb' 0 16).setWidth 32 = d := by
  have hd : d.extractLsb' 16 16 ++ d.extractLsb' 0 16 = d := BitVec.extractLsb'_append_extractLsb'
  rw [h] at hd
  rw [BitVec.setWidth_eq_append (by decide)]
  exact hd

/-- Every command word decodes to what it was made from, row by row (30_encoding R83). -/
theorem decodeCommand_encode {i : Instr} (hi : i.isCommand = true) : decodeCommand (encode i) = .instr i := by
  cases i with
  | gpioInit => decide
  | powerUp => decide
  | transact len out => simp [encode, decodeCommand]
  | regRead addr => simp [encode, decodeCommand, withoutData]
  | regWrite addr value =>
    obtain ⟨hupper, hlower⟩ := value_in_data value
    simp [encode, decodeCommand, withoutData, hupper, hlower]
  | status => decide
  | strobe addr => simp [encode, decodeCommand, withoutData]
  | chipReset => decide
  | f8Select _ | f24Read _ | f24Write _ _ => cases hi

/-- A decoded word is an encoding: `RSV` is 0, and the row fixes what its instruction does not carry. -/
theorem encode_of_decodeCommand {w : CmdWord} {i : Instr} (h : decodeCommand w = .instr i) : encode i = w := by
  obtain ⟨hrsv, hrow⟩ := decodeCommand_cases h
  have hw := cmdWord_fields hrsv
  rcases hrow with ⟨hop, ha, hd, rfl⟩ | ⟨hop, ha, hd, rfl⟩ | ⟨hop, rfl⟩ | ⟨hop, hd, rfl⟩ | ⟨hop, hd, rfl⟩ |
    ⟨hop, ha, hd, rfl⟩ | ⟨hop, hd, rfl⟩ | ⟨hop, ha, hd, rfl⟩
  · simpa only [encode, hop, ha, hd] using hw
  · simpa only [encode, hop, ha, hd] using hw
  · simpa only [encode, hop] using hw
  · simpa only [encode, hop, hd] using hw
  · have hupper : (cmdData w).extractLsb' 16 16 = 0 := by
      rw [← BitVec.setWidth_ushiftRight_eq_extractLsb, hd]
      rfl
    simpa only [encode, hop, lowHalf_of_upper_zero hupper] using hw
  · simpa only [encode, hop, ha, hd] using hw
  · simpa only [encode, hop, hd] using hw
  · simpa only [encode, hop, ha, hd] using hw

/-- Settles O2: a command word row by row, a frame from its fields. -/
theorem decodeOfEncode : Obligations.DecodeOfEncode := by
  intro i
  cases i with
  | f8Select a =>
    rw [encode_f8Select]
    exact (decodeTable_f8 _).trans (decodeF8_append a)
  | f24Read a =>
    rw [encode, frame24_eq_append]
    exact (decodeTable_f24 _).trans (decodeF24_append true a 0)
  | f24Write a d =>
    rw [encode, frame24_eq_append]
    exact (decodeTable_f24 _).trans (decodeF24_append false a d)
  | _ => exact decodeCommand_encode rfl

/-- Settles O3: what each decoder can answer, encoded again. -/
theorem encodeOfDecode : Obligations.EncodeOfDecode := by
  refine ⟨fun w i => encode_of_decodeCommand, fun w i h => ?_, fun w i h => ?_⟩
  · obtain ⟨a, rfl, rfl⟩ := decodeF8_cases h
    exact encode_f8Select a
  · rcases decodeF24_cases h with ⟨a, rfl, rfl⟩ | ⟨a, d, rfl, rfl⟩
    · exact frame24_eq_append 1 a 0
    · exact frame24_eq_append 0 a d

/-- Settles O1: eleven closed words. -/
theorem specWordsDecode : Obligations.SpecWordsDecode := by
  unfold Obligations.SpecWordsDecode
  decide

/-! ## The rows of the command table (30_encoding R83) -/

/-- The family RowMatch as one statement. -/
theorem encode_matches_row (i : Instr) : encode i &&& i.row.2 = i.row.1 := by
  cases i with
  | gpioInit => exact Laws.RowMatch.gpioInit
  | powerUp => exact Laws.RowMatch.powerUp
  | transact len out => exact Laws.RowMatch.transact len out
  | regRead addr => exact Laws.RowMatch.regRead addr
  | regWrite addr value => exact Laws.RowMatch.regWrite addr value
  | status => exact Laws.RowMatch.status
  | strobe addr => exact Laws.RowMatch.strobe addr
  | chipReset => exact Laws.RowMatch.chipReset
  | f8Select addr => exact Laws.RowMatch.f8Select addr
  | f24Read addr => exact Laws.RowMatch.f24Read addr
  | f24Write addr data => exact Laws.RowMatch.f24Write addr data

theorem matches_row_of_decode {w : CmdWord} {i : Instr} (h : decodeCommand w = .instr i) :
    w &&& i.row.2 = i.row.1 := by
  rw [← encode_of_decodeCommand h]
  exact encode_matches_row i

/-- A field that the mask covers is that of the match. -/
theorem field_of_row {w mask value : CmdWord} (h : w &&& mask = value) {start len : Nat}
    (hm : mask.extractLsb' start len = BitVec.allOnes len) :
    w.extractLsb' start len = value.extractLsb' start len := by
  rw [← h, BitVec.extractLsb'_and, hm, BitVec.and_allOnes]

/-- A row that fixes `OP`, and `RSV` to 0, leaves the other two fields to make up the word. -/
theorem cmdWord_of_row {w mask value : CmdWord} {op : BitVec 4} (h : w &&& mask = value)
    (hm : cmdOp mask = BitVec.allOnes 4 ∧ cmdRsv mask = BitVec.allOnes 4) (hv : cmdOp value = op ∧ cmdRsv value = 0) :
    cmdWord op (cmdArg8 w) (cmdData w) = w := by
  obtain ⟨hopMask, hrsvMask⟩ := hm
  obtain ⟨hopValue, hrsvValue⟩ := hv
  have hop : cmdOp w = op := (field_of_row h hopMask).trans hopValue
  have hrsv : cmdRsv w = 0 := (field_of_row h hrsvMask).trans hrsvValue
  rw [← hop]
  exact cmdWord_fields hrsv

theorem data_of_row {w mask value : CmdWord} (h : w &&& mask = value)
    (hm : mask.extractLsb' 0 32 = BitVec.allOnes 32) (hv : value.extractLsb' 0 32 = 0) : cmdData w = 0 :=
  (field_of_row h hm).trans hv

/-- A row without operands is matched by one word only. -/
theorem encode_eq_of_fullMask {w : CmdWord} {j : Instr} (hm : j.row.2 = BitVec.allOnes 48)
    (h : w &&& j.row.2 = j.row.1) : encode j = w := by
  have hj := (encode_matches_row j).trans h.symm
  rwa [hm, BitVec.and_allOnes, BitVec.and_allOnes] at hj

/-- A word that matches the row of an operation is an encoding of that row. -/
theorem encode_of_row {w : CmdWord} {j : Instr} (hj : j.isCommand = true) (h : w &&& j.row.2 = j.row.1) :
    ∃ i : Instr, i.isCommand = true ∧ i.row = j.row ∧ encode i = w := by
  cases j with
  | gpioInit => exact ⟨_, rfl, rfl, encode_eq_of_fullMask rfl h⟩
  | powerUp => exact ⟨_, rfl, rfl, encode_eq_of_fullMask rfl h⟩
  | transact _ _ =>
    have hw := cmdWord_of_row (mask := 0xFF0000000000) (value := 0x300000000000) (op := 3) h (by decide) (by decide)
    exact ⟨.transact (cmdArg8 w) (cmdData w), rfl, rfl, hw⟩
  | regRead _ =>
    have hw := cmdWord_of_row (mask := 0xFF00FFFFFFFF) (value := 0x400000000000) (op := 4) h (by decide) (by decide)
    rw [data_of_row (mask := 0xFF00FFFFFFFF) (value := 0x400000000000) h (by decide) (by decide)] at hw
    exact ⟨.regRead (cmdArg8 w), rfl, rfl, hw⟩
  | regWrite _ _ =>
    have hw := cmdWord_of_row (mask := 0xFF00FFFF0000) (value := 0x500000000000) (op := 5) h (by decide) (by decide)
    have hupper : (cmdData w).extractLsb' 16 16 = 0 := by
      rw [cmdData, BitVec.extractLsb'_extractLsb'_of_le (by decide),
        field_of_row (mask := 0xFF00FFFF0000) (value := 0x500000000000) h (by decide)]
      decide
    rw [← lowHalf_of_upper_zero hupper] at hw
    exact ⟨.regWrite (cmdArg8 w) ((cmdData w).extractLsb' 0 16), rfl, rfl, hw⟩
  | status => exact ⟨_, rfl, rfl, encode_eq_of_fullMask rfl h⟩
  | strobe _ =>
    have hw := cmdWord_of_row (mask := 0xFF00FFFFFFFF) (value := 0x700000000000) (op := 7) h (by decide) (by decide)
    rw [data_of_row (mask := 0xFF00FFFFFFFF) (value := 0x700000000000) h (by decide) (by decide)] at hw
    exact ⟨.strobe (cmdArg8 w), rfl, rfl, hw⟩
  | chipReset => exact ⟨_, rfl, rfl, encode_eq_of_fullMask rfl h⟩
  | f8Select _ | f24Read _ | f24Write _ _ => cases hj

/-- Settles O4: a decoded word is its instruction's encoding, and a word that matches a row is an encoding of that row. -/
theorem commandRowsDecideDecoding : Obligations.CommandRowsDecideDecoding := by
  refine ⟨fun w i => matches_row_of_decode, fun w j hj h => ?_⟩
  obtain ⟨i, hi, hrow, rfl⟩ := encode_of_row hj h
  exact ⟨i, decodeCommand_encode hi, hrow⟩

end Sys2Proof
end

section
/-! PROOFS. What the words of 30_encoding do when they are executed. -/

namespace Sys2Proof.Machine

/-! ## Reserved words -/

theorem startCommand_of_rejected {s : State} {why : Reject} (h : decodeCommand s.cmd = .rejected why) :
    s.startCommand = .settled s.refuseWord := by
  rw [State.startCommand, h]

/-- A word that matches no operation's row is rejected (30_encoding R85). -/
theorem decodeCommand_of_no_row {w : CmdWord} (h : ∀ j : Instr, j.isCommand = true → w &&& j.row.2 ≠ j.row.1) :
    ∃ why, decodeCommand w = .rejected why := by
  cases hd : decodeCommand w with
  | instr i => exact absurd (matches_row_of_decode hd) (h i (decodeCommand_isCommand hd))
  | rejected why => exact ⟨why, rfl⟩

/-- Settles O19: the word is accepted, rejected by the decoder, and the operation ended at once. -/
theorem reservedWordIsRefused : Obligations.ReservedWordIsRefused := by
  intro s w rest hs hb hh hw
  obtain ⟨why, hdec⟩ := decodeCommand_of_no_row hw
  have hsettled : s.fetchCommand = .settled (accepted s w rest).refuseWord := by
    rw [State.fetchCommand, hb, if_neg (by decide), hh]
    exact startCommand_of_rejected hdec
  rw [step, fetch_idle hs, hsettled]
  simp only [State.refuseWord, State.finish, accepted, hs, hb]

/-! ## The register operations as TRANSACT (30_encoding R94, R100) -/

/-- Zero-extending the low `n` bits masks the bits above them. -/
theorem zeroExtend_low {n : Nat} (hn : n ≤ 32) (w : Word) :
    (w.extractLsb' 0 n).setWidth 32 = w &&& lowMask n := by
  apply BitVec.eq_of_getLsbD_eq
  intro i hi
  rw [BitVec.getLsbD_setWidth, BitVec.getLsbD_extractLsb', BitVec.getLsbD_and, getLsbD_lowMask hn]
  simp [hi, Bool.and_comm]

theorem lowValue_zeroExtended (w : Word) : (lowValue w).setWidth 32 = w &&& 0xFFFF :=
  zeroExtend_low (n := 16) (by decide) w

theorem lowByte_zeroExtended (w : Word) : (lowByte w).setWidth 32 = w &&& 0xFF :=
  zeroExtend_low (n := 8) (by decide) w

/-- A TRANSACT in contract answers its transaction, ended with the accumulator as result (42_transport R130, R139). -/
theorem transact_of_fits {len : BitVec 8} {n : Nat} {out : Word} {s u : State} (hn : len.toNat = n)
    (hf : payloadFits n out = true) (h : exec (.transact len out) s = .next u) :
    u = (s.transaction n out).finish .ok (s.transaction n out).acc := by
  subst hn
  obtain ⟨-, -, hu⟩ := execTransact_next h
  rwa [State.endTransact, returnWord_of_fits _ hf, eq_comm] at hu

theorem endRegRead_eq (s : State) : s.endRegRead = s.finish .ok (s.acc &&& 0xFFFF) := by
  rw [State.endRegRead, lowValue_zeroExtended]

theorem endStatus_eq (s : State) : s.endStatus = s.finish .ok (s.acc &&& 0xFF) := by
  rw [State.endStatus, lowByte_zeroExtended]

/-- An operation that ends the transaction of a TRANSACT in contract with another result. -/
theorem eq_transact_but_result {len : BitVec 8} {n : Nat} {out : Word} {s t u : State} (r : Word → Word)
    (hn : len.toNat = n) (hf : payloadFits n out = true)
    (ht : (s.transaction n out).finish .ok (r (s.transaction n out).acc) = t)
    (hu : exec (.transact len out) s = .next u) : t = { u with result := r u.result } := by
  rw [← ht, transact_of_fits hn hf hu]
  rfl

/-- Settles O43: both run the one transaction, and end with what they make of its accumulator. -/
theorem registerOpsExpandToTransact : Obligations.RegisterOpsExpandToTransact := by
  refine ⟨fun a s t u ht hu => ?_, fun a v s t u ht hu => ?_, fun s t u ht hu => ?_, fun a s t u ht hu => ?_⟩
  · exact eq_transact_but_result (n := 24) (· &&& 0xFFFF) rfl (payloadFits_readWord a)
      ((endRegRead_eq _).symm.trans (eq_of_guarded ht)) hu
  · exact eq_transact_but_result (n := 24) (fun _ => 0) rfl (payloadFits_writeWord a v) (eq_of_guarded ht) hu
  · injection ht with ht
    exact eq_transact_but_result (n := 8) (· &&& 0xFF) rfl payloadFits_statusWord ((endStatus_eq _).symm.trans ht) hu
  · exact eq_transact_but_result (n := 8) (· &&& 0xFF) rfl (payloadFits_strobeWord a)
      ((endStatus_eq _).symm.trans (eq_of_guarded ht)) hu

/-- Settles O35, by the two guards of TRANSACT. -/
theorem transactLengthRefused : Obligations.TransactLengthRefused :=
  fun _ _ _ => ⟨fun h0 => if_pos h0, fun h32 => (if_neg (by omega)).trans (if_pos h32)⟩

/-- Settles O42: the strobe word of address 0 is the status word. -/
theorem statusIsStrobeZero : Obligations.StatusIsStrobeZero := fun _ => rfl

/-! ## The wire frames -/

theorem exec_f8Select (a : Addr) (s : State) : exec (.f8Select a) s = .next (s.sendFrame 8 (a.setWidth 32)) := by
  rw [← strobeWord_addrField]
  rfl

theorem exec_f24Read (a : Addr) (s : State) :
    exec (.f24Read a) s = .next (s.sendFrame 24 (((a.setWidth 8 ||| 0x80).setWidth 32) <<< 16)) := rfl

theorem exec_f24Write (a : Addr) (v : Value) (s : State) :
    exec (.f24Write a v) s = .next (s.sendFrame 24 ((a.setWidth 32 <<< 16) ||| v.setWidth 32)) := by
  rw [← writeWord_addrField]
  rfl

/-- A frame is the window of its word, after which SEQ goes on for the caller (44_reset_seq R170). -/
theorem frame_completes {i : Instr} {len : Nat} {out : Word} {s : State} (h : exec i s = .next (s.sendFrame len out))
    (h1 : 1 ≤ len) (h32 : len ≤ 32) : ∃ levels : List Level, levels.length = len ∧
      exec i s = .next { afterWindow s out levels with seq := seqAfterFrame s.seq } := by
  obtain ⟨levels, hlen, -, e⟩ := transaction_eq len out s h1 h32
  rw [h, State.sendFrame, e]
  exact ⟨levels, hlen, rfl⟩

/-- Settles O47, by `frame_completes` for the word of each frame. -/
theorem wireFramesComplete : Obligations.WireFramesComplete :=
  ⟨fun a s => frame_completes (exec_f8Select a s) (by decide) (by decide),
    fun a s => frame_completes (exec_f24Read a s) (by decide) (by decide),
    fun a v s => frame_completes (exec_f24Write a v s) (by decide) (by decide)⟩

/-! ## The sentinel compare -/

/-- Settles O58: the compare is equality, and equality of words is equality of their bits. -/
theorem sentinelCompareIsWhole : Obligations.SentinelCompareIsWhole :=
  fun _ _ => beq_iff_eq.trans BitVec.eq_of_getLsbD_eq_iff

end Sys2Proof.Machine
end

section
/-! PROOFS. GPIO_INIT: the state it ends in, what it leaves alone, and its events. -/

namespace Sys2Proof.Machine

/-! ## The pins between and after the steps -/

theorem pinsInitialised_gpioDir (s : State) : pinsInitialised s.gpioFunc.gpioDir.pins := by
  refine ⟨fun r => ?_, fun c hc => ?_⟩
  · simp [State.gpioFunc, State.gpioDir]
  · simp only [State.gpioFunc, State.gpioDir, State.logAnyOrder_pins, Pins.extras_mapAll, List.mem_map] at hc
    obtain ⟨c', ⟨c'', -, rfl⟩, rfl⟩ := hc
    exact ⟨rfl, rfl⟩

/-- On initialised pins the core drives every output role, so the line is at the latch's level (10_state R35). -/
theorem line_of_initialised {s : State} (hs : pinsInitialised s.pins) {r : Role} (hr : r.isOutput = true) :
    s.line (.role r) = (s.pins.ofRole r).out := by
  obtain ⟨hfunc, hdir⟩ := hs.1 r
  have hdriven : pinDriven (s.pins.ofRole r) = true := by simp [pinDriven, hfunc, hdir, initialDir, hr]
  exact if_pos hdriven

theorem func_of_initialised {p : Pins} (hp : pinsInitialised p) {q : Pin} {c : PinCtl} (hc : p.get? q = some c) :
    c.func = funcGpio := by
  cases q with
  | role r => exact Option.some.inj hc ▸ (hp.1 r).1
  | extra k => exact (hp.2 c (List.mem_of_getElem? hc)).1

theorem extras_initialisedPins (p : Pins) : (initialisedPins p).extras =
    p.extras.map fun c => { c with func := funcGpio, dir := .input } := rfl

theorem initialisedPins_idem (p : Pins) : initialisedPins (initialisedPins p) = initialisedPins p := by
  apply Pins.ext_ofRole
  · intro r
    simp [ofRole_initialisedPins]
  · simp [extras_initialisedPins]

/-! ## The whole operation -/

theorem exec_gpioInit (s : State) : exec .gpioInit s = .next (s.gpioFunc.gpioDir.gpioLow.finish .ok 0) := rfl

theorem gpioInit_pins {s t : State} (h : exec .gpioInit s = .next t) : t.pins = initialisedPins s.pins := by
  obtain rfl := Host.Outcome.next.inj h
  rw [State.finish_pins, gpioSteps_pins]

/-- Settles O23: the pins are `initialisedPins`, and the rest is written at the end of the operation. -/
theorem gpioInitSetsPins : Obligations.GpioInitSetsPins := by
  intro s
  obtain ⟨f, d, w, -, -, -, e⟩ := gpioSteps_eq s
  have hexec := exec_gpioInit s
  rw [e] at hexec
  have hp := pinsInitialised_initialisedPins s.pins
  have hlow {r : Role} (hr : r.isOutput = true) : ((initialisedPins s.pins).ofRole r).out = false := by
    simp [ofRole_initialisedPins, hr]
  exact ⟨_, hexec, fun _ _ => func_of_initialised hp,
    fun r => (hp.1 r).2, fun c hc => (hp.2 c hc).2,
    fun r hr => ⟨hlow hr, (line_of_initialised hp hr).trans (hlow hr)⟩,
    fun r hr => by simp [ofRole_initialisedPins, hr],
    by simp [extras_initialisedPins], rfl, rfl, rfl, rfl⟩

/-- Settles O24: role by role for the pins; no step names another register (40_gpio_init R115). -/
theorem gpioInitFrame : Obligations.GpioInitFrame := by
  intro s t h
  rw [gpioInit_pins h]
  obtain rfl := Host.Outcome.next.inj h
  exact ⟨fun r => by simp [ofRole_initialisedPins], fun r hr => by simp [ofRole_initialisedPins, hr],
    by simp [extras_initialisedPins], rfl, rfl, rfl, rfl, rfl, rfl, rfl, rfl, rfl⟩

/-- Settles O25, by `initialisedPins_idem`. -/
theorem gpioInitIdempotent : Obligations.GpioInitIdempotent := by
  intro s t u ht hu
  rw [gpioInit_pins hu, gpioInit_pins ht, initialisedPins_idem]

/-- Settles O26: each step logs an arrangement of its stores, and an arrangement is a permutation. -/
theorem gpioInitTrace : Obligations.GpioInitTrace := by
  intro s t h
  obtain ⟨f, d, w, hf, hd, hw, e⟩ := gpioSteps_eq s
  rw [exec_gpioInit, e] at h
  obtain rfl := Host.Outcome.next.inj h
  refine ⟨f, d, w, rfl, hf, hd, hw, ?_⟩
  have hfl : f.length = 10 + s.pins.extras.length := by rw [hf.length_eq, List.length_map, Pins.all_length]
  have hdl : d.length = 10 + s.pins.extras.length := by rw [hd.length_eq, List.length_map, Pins.all_length]
  have hwl : w.length = 7 := hw.length_eq
  simp only [State.finish_trace, List.length_append]
  omega

/-- Settles O27: after step 2 every output role is driven, and its latch is untouched before step 3. -/
theorem gpioInitDirectionGlitch : Obligations.GpioInitDirectionGlitch := by
  intro s r hr
  rw [line_of_initialised (pinsInitialised_gpioDir s) hr]
  simp [State.gpioFunc, State.gpioDir]

end Sys2Proof.Machine
end

section
/-! PROOFS. POWER_UP: its events, the pins it leaves, and the power state of the chip after it. -/

namespace Sys2Proof.Machine

/-- POWER_UP runs in every state, and ends with the pins of `poweredPins` and the events of `powerEvents`. -/
theorem exec_powerUp (s : State) : exec .powerUp s =
    .next { s with
      pins := poweredPins s, dly := 0, trace := s.trace ++ powerEvents s.params
      seq := .idle, result := 0, outcome := .ok, busy := false } := by
  rw [exec, execPowerUp, raiseRails_eq, State.finish]

/-- The nine stores of POWER_UP change five pins: three each an analog-test pin, one each a rail enable and chip-select
(41_power_seq R121 to R125). -/
theorem poweredPins_eq (s : State) : poweredPins s =
    { s.pins with
      atest0 := { s.pins.atest0 with func := funcGpio, dir := .input, pull := .none }
      atest1 := { s.pins.atest1 with func := funcGpio, dir := .input, pull := .none }
      en1v8 := { s.pins.en1v8 with out := s.params.active .en1v8 }
      csn := { s.pins.csn with out := s.params.idle .csn }
      en3v3 := { s.pins.en3v3 with out := s.params.active .en3v3 } } := by
  simp only [poweredPins, Pins.setFunc, Pins.setDir, Pins.setPull, Pins.setOut, Pins.modify]

/-- Settles O28: the events are `powerEvents`, and the rest is written at the end of the operation. -/
theorem powerUpStrictOrder : Obligations.PowerUpStrictOrder :=
  fun s => ⟨_, exec_powerUp s, rfl, rfl, rfl, rfl, rfl⟩

/-- Settles O29: the pins are those of `poweredPins_eq`, role by role; of the other registers `exec_powerUp`
names only DLY and those that every end of an operation writes. -/
theorem powerUpPinsAndFrame : Obligations.PowerUpPinsAndFrame := by
  intro s t h
  rw [exec_powerUp, poweredPins_eq] at h
  obtain rfl := Host.Outcome.next.inj h
  refine ⟨fun r => ?_, rfl, rfl, rfl, rfl, rfl, rfl, rfl, rfl, rfl, rfl⟩
  cases r <;> rfl

/-- POWER_UP keeps initialised pins initialised, so after it the line of an output role is at its latch's level. -/
theorem line_after_powerUp {s t : State} (hs : pinsInitialised s.pins) (h : exec .powerUp s = .next t) {r : Role}
    (hr : r.isOutput = true) : t.line (.role r) = (t.pins.ofRole r).out :=
  line_of_initialised ((exec_continues h).pins.initialised hs) hr

/-- The idle level of a role is not its active level (00_scope R11). -/
theorem idle_ne_active (p : Params) (r : Role) : p.idle r ≠ p.active r := Bool.not_ne_self _

/-- Settles O30: the lines of the two rail enables are at their active level, that of chip-select is at its idle level, and
no role's two levels are the same. -/
theorem powerUpEndState : Obligations.PowerUpEndState := by
  intro s t hs h
  obtain ⟨hroles, -, -, -, -, -, -, -, hparams, -, -⟩ := powerUpPinsAndFrame s t h
  have hcore : t.line (.role .en1v8) = t.params.active .en1v8 := by
    rw [line_after_powerUp hs h rfl, hroles, hparams]
  have hio : t.line (.role .en3v3) = t.params.active .en3v3 := by
    rw [line_after_powerUp hs h rfl, hroles, hparams]
  have hcsn : t.line (.role .csn) = t.params.idle .csn := by
    rw [line_after_powerUp hs h rfl, hroles, hparams]
  refine ⟨beq_iff_eq.2 hcore, beq_iff_eq.2 hio, beq_iff_eq.2 hcsn, ?_, ?_⟩
  · simp [State.selected, hcsn, idle_ne_active]
  · simp [State.unpowered, hcore, (idle_ne_active _ _).symm]

end Sys2Proof.Machine
end

section
/-! PROOFS. The transport: the frame a step runs, what TRANSACT answers, what it and the wire frames leave
alone. -/

namespace Sys2Proof.Machine

/-! ## The frame a step runs -/

theorem decodeFrame_length {len : Nat} {out : Word} {i : Instr} (h : decodeFrame len out = .instr i) :
    1 ≤ len ∧ len ≤ 32 := by
  obtain ⟨rfl, -⟩ | ⟨rfl, -⟩ := decodeFrame_cases h <;> decide

/-- Settles O17, by `fetch_load`: neither the length of a frame of the table nor one of 1 to 32 is refused. -/
theorem stepRunsFrame : Obligations.StepRunsFrame := by
  refine ⟨fun s c len out i hs hd hc hf => ?_, fun s len out hs hd h1 h32 => ?_⟩
  · obtain ⟨h1, h32⟩ := decodeFrame_length hf
    rw [step, fetch_load hs hd, State.fetchFrame, if_neg (by omega), if_neg (by omega), if_neg hc, hf]
  · rw [step, fetch_load hs hd, State.fetchFrame, if_neg (by omega), if_neg (by omega), if_pos rfl]

/-! ## What TRANSACT answers -/

theorem exec_transact {len : BitVec 8} (h1 : 1 ≤ len.toNat) (h32 : len.toNat ≤ 32) (out : Word) (s : State) :
    exec (.transact len out) s = .next ((s.transaction len.toNat out).endTransact len.toNat out) :=
  (if_neg (by omega)).trans (if_neg (by omega))

/-- The overlaid bits do not depend on the word they are overlaid on (42_transport R135). -/
theorem getLsbD_overlay_of_lt {levels : List Level} (h : levels.length ≤ 32) (out : Word) {i : Nat}
    (hi : i < levels.length) : (overlay out levels).getLsbD i = (levelsWord levels).getLsbD i := by
  rw [getLsbD_overlay _ _ h, getLsbD_levelsWord h, dif_pos hi, dif_pos hi]

/-- `inputWord` (42_transport R139) after the window: the number of the levels when the word fits its length, and its low
bits in any case (93 U3). -/
theorem returnWord_afterWindow (s : State) (out : Word) {levels : List Level} (h : levels.length ≤ 32) :
    ∃ a : Word, (∀ i < levels.length, a.getLsbD i = (levelsWord levels).getLsbD i) ∧
      (payloadFits levels.length out = true → a = levelsWord levels) ∧
      (afterWindow s out levels).returnWord levels.length out = { afterWindow s out levels with acc := a } := by
  by_cases hf : payloadFits levels.length out = true
  · refine ⟨levelsWord levels, fun _ _ => rfl, fun _ => rfl, ?_⟩
    rw [returnWord_of_fits _ hf, ← afterWindow_acc_of_fits s h hf]
  · obtain ⟨a, hlow, e⟩ := returnWord_eq levels.length out (afterWindow s out levels) h
    exact ⟨a, fun i hi => (hlow i hi).trans (getLsbD_overlay_of_lt h out hi), fun h => absurd h hf, e⟩

/-- Everything a TRANSACT does whose length is in range: the window of some levels, the ones heard when the state settles
them, ended with `inputWord` in ACC and RESULT (42_transport R130 to R141, R145(d)). -/
theorem exec_transact_eq {len : BitVec 8} (h1 : 1 ≤ len.toNat) (h32 : len.toNat ≤ 32) (out : Word) (s : State) :
    ∃ (levels : List Level) (a : Word), levels.length = len.toNat ∧
      (answersKnown s len.toNat → heardLevels s len.toNat = levels) ∧
      (∀ i < len.toNat, a.getLsbD i = (levelsWord levels).getLsbD i) ∧
      (payloadFits len.toNat out = true → a = levelsWord levels) ∧
      exec (.transact len out) s = .next { afterWindow s out levels with
        acc := a, seq := .idle, result := a, outcome := .ok, busy := false } := by
  obtain ⟨levels, hlen, hheard, ewindow⟩ := transaction_eq len.toNat out s h1 h32
  obtain ⟨a, hlow, hfits, eword⟩ := returnWord_afterWindow s out (hlen.trans_le h32)
  rw [hlen] at hlow hfits eword
  refine ⟨levels, a, hlen, hheard, hlow, hfits, ?_⟩
  rw [exec_transact h1 h32, State.endTransact, ewindow, eword]
  rfl

/-- Settles O31, by `exec_transact_eq`: the word fits its length. -/
theorem transactCompletes : Obligations.TransactCompletes := by
  intro len out s h1 h32 hf
  obtain ⟨levels, a, hlen, -, -, hfits, e⟩ := exec_transact_eq h1 h32 out s
  obtain rfl := hfits hf
  exact ⟨levels, hlen, e⟩

/-- Settles O34, by `exec_transact_eq`, whatever the word. -/
theorem transactWideWord : Obligations.TransactWideWord := by
  intro len out s h1 h32
  obtain ⟨levels, a, hlen, -, hlow, -, e⟩ := exec_transact_eq h1 h32 out s
  exact ⟨levels, a, hlen, hlow, e⟩

/-- The answers of an undriven MISO are heard in order (10_state R35). -/
theorem heardLevels_of_answers {s : State} {pattern rest : List Level} (hm : pinDriven s.pins.miso = false)
    (ha : s.answers = pattern ++ rest) : heardLevels s pattern.length = pattern := by
  simp [heardLevels, hm, ha]

/-- Settles O32: the levels of `exec_transact_eq` are the pattern, since the answers settle them. -/
theorem transactReturnsEcho : Obligations.TransactReturnsEcho := by
  intro len out s pattern rest h1 h32 hf hm ha hp
  obtain ⟨levels, a, -, hheard, -, hfits, e⟩ := exec_transact_eq h1 h32 out s
  have hknown : answersKnown s len.toNat := .inr (by simp [ha, hp])
  obtain rfl : pattern = levels := by rw [← hheard hknown, ← hp, heardLevels_of_answers hm ha]
  obtain rfl := hfits hf
  refine ⟨_, e, rfl, rfl, ?_, fun i hi => ?_⟩
  · rw [afterWindow_answers, hm, ha]
    exact List.drop_left
  · rw [getLsbD_levelsWord (hp.trans_le h32), dif_pos hi]

/-- Settles O33: the events are those of one window, and the pins those it rests at. -/
theorem transactPulsesAndRest : Obligations.TransactPulsesAndRest := by
  intro len out s t h
  obtain ⟨h1, h32, -⟩ := execTransact_next h
  obtain ⟨levels, a, hlen, -, -, -, e⟩ := exec_transact_eq h1 h32 out s
  obtain rfl := Host.Outcome.next.inj (e.symm.trans h)
  refine ⟨transactionEvents s.params out levels, rfl, ?_, ?_, rfl, rfl, rfl⟩
  · rw [clockPulses_transactionEvents, hlen]
  · rw [transactionEvents_length, hlen]

/-! ## What one transaction leaves alone -/

/-- A transaction stores to the pins of CSN, MOSI and SCLK only. -/
theorem restPins_ofRole_of_ne (s : State) (out : Word) {r : Role} (hc : r ≠ .csn) (hm : r ≠ .mosi) (hk : r ≠ .sclk) :
    (restPins s out).ofRole r = s.pins.ofRole r := by
  simp [restPins, hc, hm, hk]

/-- A transaction stores to output latches only. -/
theorem restPins_keeps_controls (s : State) (out : Word) (r : Role) :
    ((restPins s out).ofRole r).func = (s.pins.ofRole r).func ∧ ((restPins s out).ofRole r).dir = (s.pins.ofRole r).dir ∧
      ((restPins s out).ofRole r).pull = (s.pins.ofRole r).pull := by
  rw [restPins_ofRole]
  exact ⟨rfl, rfl, rfl⟩

/-- The frame of every operation and wire frame of one transaction (43_register_access R164, 42_transport R145(e)). -/
theorem oneFrame_frame {i : Instr} {s t : State} (hi : i.isOneFrame = true) (h : exec i s = .next t) :
    (∀ r : Role, r ≠ .csn → r ≠ .mosi → r ≠ .sclk → t.pins.ofRole r = s.pins.ofRole r) ∧
    (∀ r : Role, (t.pins.ofRole r).func = (s.pins.ofRole r).func ∧ (t.pins.ofRole r).dir = (s.pins.ofRole r).dir ∧
      (t.pins.ofRole r).pull = (s.pins.ofRole r).pull) ∧
    t.pins.extras = s.pins.extras ∧ t.rst = s.rst ∧ t.pollcnt = s.pollcnt ∧ t.cmd = s.cmd ∧ t.params = s.params ∧
    t.host = s.host ∧
    (i.isCommand = false → t.result = s.result ∧ t.outcome = s.outcome ∧ t.busy = s.busy) := by
  obtain ⟨out, levels, acc, seq, result, outcome, busy, -, -, -, hframe, rfl⟩ := oneFrame_eq hi h
  exact ⟨fun r => restPins_ofRole_of_ne s out, restPins_keeps_controls s out, restPins_extras s out, rfl, rfl, rfl, rfl,
    rfl, fun hk => (hframe hk).2⟩

/-- Settles O46: TRANSACT and the wire frames are one transaction each. -/
theorem transactAndFramesFrame : Obligations.TransactAndFramesFrame := by
  intro i s t hi h
  have hone : i.isOneFrame = true := by
    obtain ⟨len, out, rfl⟩ | ⟨a, rfl⟩ | ⟨a, rfl⟩ | ⟨a, v, rfl⟩ := hi <;> rfl
  exact oneFrame_frame hone h

end Sys2Proof.Machine
end

section
/-! PROOFS. The window law (42_transport R142): what an execution stores to MOSI and SCLK stands while chip-select is
asserted. -/

namespace Sys2Proof.Machine

/-- Events that obey the window law from either start can follow any others. -/
theorem eventsInWindow_append {p : Params} {fs : List Event} (hf : ∀ b, eventsInWindow p b fs = true) :
    ∀ (es : List Event) (b : Bool), eventsInWindow p b (es ++ fs) = eventsInWindow p b es := by
  intro es
  induction es with
  | nil => exact hf
  | cons e es ih =>
    intro b
    rw [List.cons_append]
    unfold eventsInWindow
    split <;> simp only [ih]

/-- The bits of a transaction are stored inside its window, and leave it open. -/
theorem eventsInWindow_bitEvents (p : Params) (out : Word) (levels : List Level) (fs : List Event) :
    eventsInWindow p true (bitEvents p out levels ++ fs) = eventsInWindow p true fs := by
  induction levels with
  | nil => rfl
  | cons l levels ih => simpa [bitEvents, eventsInWindow] using ih

theorem eventsInWindow_transactionEvents (p : Params) (out : Word) (levels : List Level) (b : Bool) :
    eventsInWindow p b (transactionEvents p out levels) = true := by
  simp [transactionEvents, eventsInWindow, eventsInWindow_bitEvents]

/-- The events between `s` and `t` obey the window law, whether or not chip-select is asserted before them. -/
structure StoresInWindow (s t : State) : Prop where
  params : t.params = s.params
  events : ∃ es, t.trace = s.trace ++ es ∧ ∀ b, eventsInWindow s.params b es = true

theorem StoresInWindow.trans {s t u : State} (h : StoresInWindow s t) (h' : StoresInWindow t u) :
    StoresInWindow s u := by
  obtain ⟨hp, es, ht, hes⟩ := h
  obtain ⟨hp', fs, hu, hfs⟩ := h'
  rw [hp] at hfs
  exact ⟨hp'.trans hp, es ++ fs, by rw [hu, ht, List.append_assoc],
    fun b => (eventsInWindow_append hfs es b).trans (hes b)⟩

/-- A move of the control registers only. -/
theorem StoresInWindow.control {s t : State} (hparams : t.params = s.params) (htrace : t.trace = s.trace) :
    StoresInWindow s t :=
  ⟨hparams, [], by rw [htrace, List.append_nil], fun _ => rfl⟩

theorem StoresInWindow.afterWindow (s : State) (out : Word) (levels : List Level) :
    StoresInWindow s (afterWindow s out levels) :=
  ⟨rfl, _, rfl, eventsInWindow_transactionEvents s.params out levels⟩

/-- Every execution but GPIO_INIT's: POWER_UP stores to neither MOSI nor SCLK, and every other is a run of transactions. -/
theorem exec_storesInWindow {i : Instr} {s t : State} (hg : i ≠ .gpioInit) (h : exec i s = .next t) :
    StoresInWindow s t := by
  by_cases hi : i.isOneFrame = true
  · obtain ⟨out, levels, acc, seq, result, outcome, busy, -, -, -, -, rfl⟩ := oneFrame_eq hi h
    exact (StoresInWindow.afterWindow s out levels).trans (.control rfl rfl)
  · cases i with
    | gpioInit => exact absurd rfl hg
    | powerUp =>
      rw [exec_powerUp] at h
      obtain rfl := Host.Outcome.next.inj h
      exact ⟨rfl, powerEvents s.params, rfl, fun _ => rfl⟩
    | chipReset =>
      exact chipReset_keeps (StoresInWindow s) (fun u out levels _ hu => hu.trans (.afterWindow u out levels))
        (fun _ _ _ _ hu => hu.trans (.control rfl rfl)) (fun _ _ _ _ _ hu => hu.trans (.control rfl rfl))
        s (.control rfl rfl) t h
    | _ => exact absurd rfl hi

/-- Settles O13, by `exec_storesInWindow`. -/
theorem clockAndDataOnlyInWindow : Obligations.ClockAndDataOnlyInWindow := by
  intro i s t hg h
  obtain ⟨es, htrace, hes⟩ := (exec_storesInWindow hg h).events
  exact ⟨es, htrace, hes false⟩

end Sys2Proof.Machine
end

section
/-! PROOFS. The register operations: the state each ends in, what REG_READ returns, their clock pulses, what they leave
alone. -/

namespace Sys2Proof.Machine

/-! ## What each register operation answers -/

theorem addrInRange_iff (addr : BitVec 8) : addrInRange addr = true ↔ addr.toNat < 0x80 := decide_eq_true_iff

theorem exec_regRead {addr : BitVec 8} (h : addr.toNat < 0x80) (s : State) :
    exec (.regRead addr) s = .next (s.transaction 24 (readWord addr)).endRegRead :=
  if_pos ((addrInRange_iff addr).2 h)

theorem exec_regWrite {addr : BitVec 8} (h : addr.toNat < 0x80) (value : Value) (s : State) :
    exec (.regWrite addr value) s = .next (s.transaction 24 (writeWord addr value)).endRegWrite :=
  if_pos ((addrInRange_iff addr).2 h)

theorem exec_strobe {addr : BitVec 8} (h : addr.toNat < 0x80) (s : State) :
    exec (.strobe addr) s = .next (s.transaction 8 (strobeWord addr)).endStrobe :=
  if_pos ((addrInRange_iff addr).2 h)

/-- Settles O41: the guard of each of the three fails. -/
theorem addressAbove7BitsRefused : Obligations.AddressAbove7BitsRefused := by
  intro addr value s h
  have hr : ¬ addrInRange addr = true := mt (addrInRange_iff addr).1 (by omega)
  exact ⟨if_neg hr, if_neg hr, if_neg hr⟩

/-! ## The state each ends in -/

/-- A transaction in contract, ended with `r` of its accumulator: the window of some levels, the ones heard when the state
settles them, and `r` of their number in RESULT (43_register_access R150 to R157). -/
theorem endedTransaction_eq (r : Word → Word) {len : Nat} {out : Word} (s : State) (h1 : 1 ≤ len) (h32 : len ≤ 32)
    (hf : payloadFits len out = true) :
    ∃ levels : List Level, levels.length = len ∧ (answersKnown s len → heardLevels s len = levels) ∧
      (s.transaction len out).finish .ok (r (s.transaction len out).acc) = { afterWindow s out levels with
        seq := .idle, result := r (levelsWord levels), outcome := .ok, busy := false } := by
  obtain ⟨levels, rfl, hheard, e⟩ := transaction_eq len out s h1 h32
  refine ⟨levels, rfl, hheard, ?_⟩
  rw [e, afterWindow_acc_of_fits s h32 hf]
  rfl

/-- Everything a REG_READ in contract does (43_register_access R150). -/
theorem exec_regRead_eq {addr : BitVec 8} (h : addr.toNat < 0x80) (s : State) :
    ∃ levels : List Level, levels.length = 24 ∧ (answersKnown s 24 → heardLevels s 24 = levels) ∧
      exec (.regRead addr) s = .next { afterWindow s (readWord addr) levels with
        seq := .idle, result := (lowValue (levelsWord levels)).setWidth 32, outcome := .ok, busy := false } := by
  obtain ⟨levels, hlen, hheard, e⟩ :=
    endedTransaction_eq (fun w => (lowValue w).setWidth 32) s (by decide) (by decide) (payloadFits_readWord addr)
  exact ⟨levels, hlen, hheard, (exec_regRead h s).trans (congrArg _ e)⟩

/-- Settles O36, by `exec_regRead_eq`. -/
theorem regReadCompletes : Obligations.RegReadCompletes := by
  intro addr s h
  obtain ⟨levels, hlen, -, e⟩ := exec_regRead_eq h s
  exact ⟨levels, hlen, e⟩

/-- Settles O37: the operation ends its transaction with 0, whatever the accumulator. -/
theorem regWriteCompletes : Obligations.RegWriteCompletes := by
  intro addr value s h
  obtain ⟨levels, hlen, -, e⟩ :=
    endedTransaction_eq (fun _ => 0) s (by decide) (by decide) (payloadFits_writeWord addr value)
  exact ⟨levels, hlen, (exec_regWrite h value s).trans (congrArg _ e)⟩

/-- Settles O39: the operation ends its transaction with the low byte. -/
theorem strobeCompletes : Obligations.StrobeCompletes := by
  intro addr s h
  obtain ⟨levels, hlen, -, e⟩ :=
    endedTransaction_eq (fun w => (lowByte w).setWidth 32) s (by decide) (by decide) (payloadFits_strobeWord addr)
  exact ⟨levels, hlen, (exec_strobe h s).trans (congrArg _ e)⟩

/-- Settles O38: STATUS is STROBE of address 0 (30_encoding R97), whose word is 0. -/
theorem statusCompletes : Obligations.StatusCompletes := by
  intro s
  rw [statusIsStrobeZero]
  exact strobeCompletes 0 s (by decide)

/-! ## What REG_READ returns -/

/-- The last levels make the low bits: those before them are cut off (20_memory R74(c)). -/
theorem levelsWord_append_low {header data : List Level} {n : Nat} (hn : data.length = n)
    (h32 : (header ++ data).length ≤ 32) :
    ((levelsWord (header ++ data)).extractLsb' 0 n).setWidth 32 = levelsWord data := by
  subst hn
  have hlen : (header ++ data).length = header.length + data.length := List.length_append
  apply BitVec.eq_of_getLsbD_eq
  intro i hi
  rw [BitVec.getLsbD_setWidth, BitVec.getLsbD_extractLsb', Nat.zero_add, getLsbD_levelsWord h32,
    getLsbD_levelsWord (by omega)]
  by_cases hd : i < data.length
  · have hlow : i < (header ++ data).length := by omega
    have hlast : (header ++ data)[(header ++ data).length - 1 - i] = data[data.length - 1 - i] := by
      rw [List.getElem_append_right (by omega)]
      congr 1
      omega
    rw [dif_pos hlow, dif_pos hd, hlast]
    simp [hi, hd]
  · simp [hd]

/-- Settles O40: the answers settle the levels, and RESULT is the low sixteen bits of their number. -/
theorem regReadReturnsDataPhase : Obligations.RegReadReturnsDataPhase := by
  intro addr s header data rest h hm ha hheader hdata
  obtain ⟨levels, hlen, hheard, e⟩ := exec_regRead_eq h s
  have h24 : (header ++ data).length = 24 := by rw [List.length_append, hheader, hdata]
  have hknown : answersKnown s 24 := .inr (by rw [ha, List.length_append]; omega)
  obtain rfl : header ++ data = levels := by rw [← hheard hknown, ← h24, heardLevels_of_answers hm ha]
  refine ⟨_, e, levelsWord_append_low hdata (by omega), ?_⟩
  rw [afterWindow_answers, hm, ha]
  exact List.drop_left

/-! ## Clock pulses and frame -/

/-- The events of a transaction that an operation has ended (42_transport R132, R141). -/
theorem endedTransaction_events {len : Nat} (h1 : 1 ≤ len) (h32 : len ≤ 32) (out : Word) (o : OutcomeCode) (r : Word)
    (s : State) : ∃ es, ((s.transaction len out).finish o r).trace = s.trace ++ es ∧ clockPulses es = len ∧
      es.length = 6 * len + 3 := by
  obtain ⟨levels, rfl, -, e⟩ := transaction_eq len out s h1 h32
  refine ⟨transactionEvents s.params out levels, ?_, clockPulses_transactionEvents _ _ _,
    transactionEvents_length _ _ _⟩
  rw [State.finish_trace, e, afterWindow_trace]

/-- Settles O44: the two short operations run one transaction of 8 bits, the two long ones one of 24. -/
theorem registerPulseCounts : Obligations.RegisterPulseCounts := by
  constructor
  · rintro i s t (rfl | ⟨a, rfl⟩) h
    · obtain rfl := Host.Outcome.next.inj h
      exact endedTransaction_events (len := 8) (by decide) (by decide) _ _ _ s
    · obtain rfl := eq_of_guarded h
      exact endedTransaction_events (len := 8) (by decide) (by decide) _ _ _ s
  · rintro i s t (⟨a, rfl⟩ | ⟨a, v, rfl⟩) h
    · obtain rfl := eq_of_guarded h
      exact endedTransaction_events (len := 24) (by decide) (by decide) _ _ _ s
    · obtain rfl := eq_of_guarded h
      exact endedTransaction_events (len := 24) (by decide) (by decide) _ _ _ s

/-- Settles O45: each of the four is one transaction. -/
theorem registerOpsFrame : Obligations.RegisterOpsFrame := by
  intro i s t hi h
  have hone : i.isOneFrame = true := by
    obtain ⟨a, rfl⟩ | ⟨a, v, rfl⟩ | rfl | ⟨a, rfl⟩ := hi <;> rfl
  obtain ⟨hpins, hcontrols, hextras, hrst, hpolls, hcmd, hparams, hhost, -⟩ := oneFrame_frame hone h
  exact ⟨hpins, hcontrols, hextras, hrst, hpolls, hcmd, hparams, hhost⟩

end Sys2Proof.Machine
end

section
/-! PROOFS. CHIP_RESET over all its executions: what each leaves unchanged, where it leaves chip-select and clock, and the
chain RST moves along. -/

namespace Sys2Proof.Machine

/-! ## The frame -/

/-- Chip-select is idle and the clock low, as after every transaction (42_transport R145(e)). -/
def linkAtRest (s : State) : Prop := s.pins.csn.out = s.params.idle .csn ∧ s.pins.sclk.out = false

theorem judgePoll_rests {sentinel : Value} (phase : Bool) {matched : State → State} {s : State}
    (hm : linkAtRest (matched (s.setPolls (s.pollcnt + 1)))) (h : linkAtRest s) :
    linkAtRest (s.judgePoll sentinel phase matched) := by
  unfold State.judgePoll
  split
  · exact hm
  · split <;> exact h

/-- The moves between the transactions of CHIP_RESET store to no pin. -/
theorem resetContinue_rests {s : State} (h : linkAtRest s) : linkAtRest s.resetContinue := by
  unfold State.resetContinue
  split
  case h_2 | h_4 => exact judgePoll_rests _ h h
  all_goals exact h

theorem resetTransaction_rests (w : Word) (s : State) : linkAtRest (s.resetTransaction w) := by
  obtain ⟨levels, -, -, e⟩ := transaction_eq 24 w s (by decide) (by decide)
  rw [State.resetTransaction, e]
  exact resetContinue_rests ⟨rfl, rfl⟩

theorem pollEnable_rests (s : State) : linkAtRest s.pollEnable := by
  have h := resetTransaction_rests s.pollFrame s
  unfold State.pollEnable
  dsimp only
  split
  · exact resetContinue_rests h
  · exact h

theorem pollDisable_rests (s : State) : linkAtRest s.pollDisable := by
  unfold State.pollDisable
  dsimp only
  split
  · exact pollEnable_rests _
  · exact resetTransaction_rests _ s

/-- Every execution of CHIP_RESET makes a transaction, and none stores to a pin after its last one. -/
theorem chipReset_rests {s t : State} (h : exec .chipReset s = .next t) : linkAtRest t := by
  obtain rfl := Host.Outcome.next.inj h
  split
  · unfold State.resumeReset
    split
    case h_3 => exact pollEnable_rests _
    case h_4 => exact pollEnable_rests s
    all_goals exact pollDisable_rests _
  · exact pollDisable_rests _

/-- From `p` to `q` at most the output latches of CSN, MOSI and SCLK have changed (44_reset_seq R185(c)). -/
structure LinkLatchesOnly (p q : Pins) : Prop where
  others : ∀ r : Role, r ≠ .csn → r ≠ .mosi → r ≠ .sclk → q.ofRole r = p.ofRole r
  controls : ∀ r : Role, (q.ofRole r).func = (p.ofRole r).func ∧ (q.ofRole r).dir = (p.ofRole r).dir ∧
    (q.ofRole r).pull = (p.ofRole r).pull
  extras : q.extras = p.extras

theorem LinkLatchesOnly.refl (p : Pins) : LinkLatchesOnly p p := ⟨fun _ _ _ _ => rfl, fun _ => ⟨rfl, rfl, rfl⟩, rfl⟩

theorem LinkLatchesOnly.window {p : Pins} {u : State} (h : LinkLatchesOnly p u.pins) (w : Word) :
    LinkLatchesOnly p (restPins u w) where
  others r hc hm hk := (restPins_ofRole_of_ne u w hc hm hk).trans (h.others r hc hm hk)
  controls r := by rw [restPins_ofRole]; exact h.controls r
  extras := (restPins_extras u w).trans h.extras

/-- Settles O55: transactions change three latches and the moves between them no pin (`chipReset_keeps`), and the last
transaction leaves the link at rest. -/
theorem chipResetFrame : Obligations.ChipResetFrame := by
  intro s t h
  obtain ⟨hothers, hcontrols, hextras⟩ : LinkLatchesOnly s.pins t.pins :=
    chipReset_keeps (fun u => LinkLatchesOnly s.pins u.pins) (fun _ out _ _ hu => hu.window out)
      (fun _ _ _ _ hu => hu) (fun _ _ _ _ _ hu => hu) s (.refl s.pins) t h
  obtain ⟨hparams, hcmd, hhost, -⟩ := exec_keeps_params h
  obtain ⟨hcsn, hsclk⟩ := chipReset_rests h
  exact ⟨hothers, hcontrols, hextras, hcmd, hparams, hhost, hparams ▸ hcsn, hsclk⟩

/-! ## The chain of RST -/

/-- RST stays, or moves one place along the chain or from a poll phase to Failed (44_reset_seq R171, R179). -/
def RstMove (r r' : Rst) : Prop :=
  r' = r ∨ (r, r') ∈ [(Rst.idle, Rst.disabling), (.disabling, .confirmedDisabled), (.confirmedDisabled, .enabling),
    (.enabling, .confirmedEnabled), (.confirmedEnabled, .done), (.disabling, .failed), (.enabling, .failed)]

theorem judgePoll_rstMove {sentinel : Value} (phase : Bool) {matched : State → State} {s : State}
    (hm : RstMove s.rst (matched (s.setPolls (s.pollcnt + 1))).rst) (hf : RstMove s.rst .failed) :
    RstMove s.rst (s.judgePoll sentinel phase matched).rst := by
  unfold State.judgePoll
  split
  · exact hm
  · split
    · exact hf
    · exact .inl rfl

theorem resetContinue_rstMove (s : State) : RstMove s.rst s.resetContinue.rst := by
  unfold State.resetContinue
  split
  case h_1 h | h_3 h | h_5 h => exact .inr (by simp [h])
  case h_2 h | h_4 h => exact judgePoll_rstMove _ (.inr (by simp [h])) (.inr (by simp [h]))
  case h_6 | h_7 => exact .inl rfl

theorem linkDone_rstMove (c : Caller) (len : Nat) (out : Word) (s : State) :
    RstMove s.rst (s.linkDone c len out).rst := by
  cases c with
  | transact =>
    obtain ⟨a, e⟩ := returnWord_eq_acc len out s
    rw [State.linkDone, State.endTransact, e]
    exact .inl rfl
  | chipReset => exact resetContinue_rstMove s
  | _ => exact .inl rfl

/-- Within a transaction RST stays; at its `T_DONE` the caller goes on. -/
theorem linkTick_rstMove (c : Caller) (len : Nat) (out : Word) (ph : LinkPhase) (s : State) :
    RstMove s.rst (s.linkTick c len out ph).rst := by
  cases ph with
  | fall => rw [linkTick_fall]; split <;> exact .inl rfl
  | done => exact linkDone_rstMove c len out s
  | _ => exact .inl rfl

theorem gpioTick_rst (ph : GpioPhase) (s : State) : (s.gpioTick ph).rst = s.rst := by cases ph <;> rfl

theorem powerTick_rst (ph : PowerPhase) (s : State) : (s.powerTick ph).rst = s.rst := by cases ph <;> rfl

/-- Settles O57: only the end of a transaction of CHIP_RESET writes RST. -/
theorem rstMovesAlongChain : Obligations.RstMovesAlongChain := by
  intro s
  show RstMove s.rst s.tick.rst
  unfold State.tick
  split
  · exact .inl rfl
  all_goals split
  · exact .inl (gpioTick_rst _ s)
  · exact .inl rfl
  · exact .inl (powerTick_rst _ s)
  · exact .inl rfl
  · exact linkTick_rstMove _ _ _ _ s
  · exact .inl rfl

end Sys2Proof.Machine
end

section
/-! PROOFS. CHIP_RESET against a chip whose answers are given: how an execution comes to a poll, and how it goes on from
there. -/

namespace Sys2Proof.Machine

/-! ## The words of CHIP_RESET's transactions -/

theorem pollFrame_eq (s : State) : s.pollFrame = pollWord s.params := rfl

theorem sentinelFrame_A (s : State) : s.sentinelFrame sentinelA = (s.params.mainAddr.setWidth 32) <<< 16 := by
  rw [State.sentinelFrame, writeWord_addrField]
  exact BitVec.or_zero

theorem sentinelFrame_B (s : State) :
    s.sentinelFrame sentinelB = ((s.params.mainAddr.setWidth 32) <<< 16) ||| 0x8000 := by
  rw [State.sentinelFrame, writeWord_addrField]
  rfl

/-! ## An execution on its way -/

/-- CHIP_RESET, running or begun in `s`, is at `u`: its transactions have heard the next `heard` answers of the chip, the
trace is `trace`, and nothing is reported yet. -/
structure Underway (s u : State) (heard : Nat) (trace : List Event) : Prop where
  params : u.params = s.params
  busy : u.busy = s.busy
  result : u.result = s.result
  outcome : u.outcome = s.outcome
  answers : u.answers = s.answers.drop heard
  trace : u.trace = trace
  pins : LinkLatchesOnly s.pins u.pins
  undriven : pinDriven s.pins.miso = false

section
variable {s u : State} {heard : Nat} {trace : List Event}

theorem Underway.refl (hm : pinDriven s.pins.miso = false) : Underway s s 0 s.trace :=
  ⟨rfl, rfl, rfl, rfl, rfl, rfl, .refl s.pins, hm⟩

/-- A move between transactions. -/
theorem Underway.move (h : Underway s u heard trace) (rst : Rst) (polls : Nat) (w : Word) :
    Underway s (((u.setRst rst).setPolls polls).standBefore w) heard trace := { h with }

theorem Underway.miso (h : Underway s u heard trace) : pinDriven u.pins.miso = false := by
  have hp : u.pins.miso = s.pins.miso := h.pins.others .miso (by decide) (by decide) (by decide)
  rw [hp, h.undriven]

/-- The next transaction hears the next 24 answers. -/
theorem Underway.levels_eq (h : Underway s u heard trace) (hk : heard + 24 ≤ s.answers.length) {levels : List Level}
    (hh : answersKnown u 24 → heardLevels u 24 = levels) : levels = answersOf s heard := by
  have hlen : 24 ≤ u.answers.length := by rw [h.answers, List.length_drop]; omega
  exact (eq_answersOf h.miso hlen hh).trans (answersOf_of_drop 0 h.answers)

/-- A transaction on the way. -/
theorem Underway.window (h : Underway s u heard trace) (hk : heard + 24 ≤ s.answers.length) (w : Word) :
    Underway s (afterWindow u w (answersOf s heard)) (heard + 24)
      (trace ++ transactionEvents s.params w (answersOf s heard)) where
  params := h.params
  busy := h.busy
  result := h.result
  outcome := h.outcome
  answers := by rw [afterWindow_answers, h.miso, h.answers, answersOf_length hk]; exact List.drop_drop
  trace := by rw [afterWindow_trace, h.trace, h.params]
  pins := h.pins.window w
  undriven := h.undriven

/-- The write of sentinel A on the way. -/
theorem Underway.disableWrite (h : Underway s u heard trace) (hk : heard + 24 ≤ s.answers.length) :
    Underway s (afterWindow u (u.sentinelFrame sentinelA) (answersOf s heard)) (heard + 24)
      (trace ++ disableWriteEvents s.params (answersOf s heard)) := by
  rw [sentinelFrame_A, h.params]
  exact h.window hk _

/-- The write of sentinel B on the way. -/
theorem Underway.enableWrite (h : Underway s u heard trace) (hk : heard + 24 ≤ s.answers.length) :
    Underway s (afterWindow u (u.sentinelFrame sentinelB) (answersOf s heard)) (heard + 24)
      (trace ++ enableWriteEvents s.params (answersOf s heard)) := by
  rw [sentinelFrame_B, h.params]
  exact h.window hk _

/-- A poll on the way. -/
theorem Underway.poll (h : Underway s u heard trace) (hk : heard + 24 ≤ s.answers.length) :
    Underway s (afterWindow u u.pollFrame (answersOf s heard)) (heard + 24)
      (trace ++ pollEvents s.params (answersOf s heard)) := by
  rw [pollFrame_eq, h.params]
  exact h.window hk _

end

/-! ## Coming to a poll -/

theorem resumeReset_disabling {s : State} (h : s.rst = .disabling) : s.resumeReset = s.pollDisable := by
  rw [State.resumeReset, h]

theorem resumeReset_enabling {s : State} (h : s.rst = .enabling) : s.resumeReset = s.pollEnable := by
  rw [State.resumeReset, h]

/-- The execution of CHIP_RESET from `s` comes to the poll before which `u` stands: the next of the phase `rst` after
`polls` others. -/
structure ComesToPoll (s u : State) (rst : Rst) (polls heard : Nat) (trace : List Event) : Prop where
  underway : Underway s u heard trace
  exec_eq : exec .chipReset s = .next u.resumeReset
  rst_eq : u.rst = rst
  pollcnt_eq : u.pollcnt = polls

/-- Standing before a poll, an execution begins with it. -/
theorem comesToPoll_standing {s : State} (hs : inChipReset s.seq = true) (hm : pinDriven s.pins.miso = false) :
    ComesToPoll s s s.rst s.pollcnt 0 s.trace where
  underway := .refl hm
  exec_eq := by rw [exec, execChipReset, if_pos hs]
  rst_eq := rfl
  pollcnt_eq := rfl

/-- From CHIP_RESET's start, an execution comes to the first poll of the disable phase once sentinel A is written
(44_reset_seq R172, R181). -/
theorem comesToPoll_begun {s : State} (hs : inChipReset s.seq = false) (hm : pinDriven s.pins.miso = false)
    (hk : 24 ≤ s.answers.length) :
    ∃ u, ComesToPoll s u .disabling 0 24 (s.trace ++ disableWriteEvents s.params (answersOf s 0)) := by
  have hbegun : Underway s s.beginReset 0 s.trace := (Underway.refl hm).move .idle s.pollcnt _
  obtain ⟨levels, -, hheard, e⟩ := disablePhase_eq s.beginReset rfl
  obtain rfl := hbegun.levels_eq (by omega) hheard
  have hwritten := (hbegun.disableWrite (by omega)).move .disabling 0 s.beginReset.pollFrame
  refine ⟨_, hwritten, ?_, rfl, rfl⟩
  rw [exec, execChipReset, if_neg (by simp [hs])]
  exact congrArg _ (e.trans (resumeReset_disabling rfl).symm)

section
variable {s u : State} {rst : Rst} {polls heard : Nat} {trace : List Event}

/-- The enable phase writes sentinel B and comes to its first poll (44_reset_seq R174). -/
theorem Underway.enablePhase_polls (h : Underway s u heard trace) (hr : u.rst = .confirmedDisabled)
    (hk : heard + 24 ≤ s.answers.length) :
    ∃ v, u.enablePhase = v.resumeReset ∧ v.rst = .enabling ∧ v.pollcnt = 0 ∧
      Underway s v (heard + 24) (trace ++ enableWriteEvents s.params (answersOf s heard)) := by
  obtain ⟨levels, -, hheard, e⟩ := enablePhase_eq u hr
  obtain rfl := h.levels_eq hk hheard
  exact ⟨_, e.trans (resumeReset_enabling rfl).symm, rfl, rfl, (h.enableWrite hk).move .enabling 0 u.pollFrame⟩

/-- In Disabling, a poll that matches is followed by the write of sentinel B and the first poll of the enable phase
(44_reset_seq R173, R174). -/
theorem ComesToPoll.goesOn (h : ComesToPoll s u .disabling polls heard trace) (hk : heard + 48 ≤ s.answers.length)
    (hmatch : readback (answersOf s heard) = 0x0000) :
    ∃ v, ComesToPoll s v .enabling 0 (heard + 48) (trace ++ pollEvents s.params (answersOf s heard)
      ++ enableWriteEvents s.params (answersOf s (heard + 24))) := by
  obtain ⟨levels, -, hheard, e⟩ := pollDisable_eq u h.rst_eq
  obtain rfl := h.underway.levels_eq (by omega) hheard
  rw [if_pos (show _ = sentinelA from hmatch)] at e
  have hconfirmed := (h.underway.poll (by omega)).move .confirmedDisabled (u.pollcnt + 1) (u.sentinelFrame sentinelB)
  obtain ⟨v, he, hrst, hpolls, hv⟩ := hconfirmed.enablePhase_polls rfl (by omega)
  exact ⟨v, hv, h.exec_eq.trans (congrArg _ ((resumeReset_disabling h.rst_eq).trans (e.trans he))), hrst, hpolls⟩

/-! ## How a poll ends an execution -/

/-- A readback that is not the sentinel of the phase (44_reset_seq R173, R175). -/
def missesSentinel (rst : Rst) (levels : List Level) : Prop :=
  (rst = .disabling ∧ readback levels ≠ 0x0000) ∨ (rst = .enabling ∧ readback levels ≠ 0x8000)

/-- A poll of either phase that does not match (44_reset_seq R173, R175, R179). -/
theorem ComesToPoll.resumeReset_of_miss (h : ComesToPoll s u rst polls heard trace)
    (hk : heard + 24 ≤ s.answers.length) (hmiss : missesSentinel rst (answersOf s heard)) :
    u.resumeReset =
      if pollsExhausted s.params.pollLimit (polls + 1) then pollFailed u (rst == .enabling) (answersOf s heard)
      else pollMissed u (answersOf s heard) := by
  rw [← h.underway.params, ← h.pollcnt_eq]
  obtain ⟨rfl, hne⟩ | ⟨rfl, hne⟩ := hmiss
  · obtain ⟨levels, -, hheard, e⟩ := pollDisable_eq u h.rst_eq
    obtain rfl := h.underway.levels_eq hk hheard
    rw [resumeReset_disabling h.rst_eq, e, if_neg (show ¬ _ = sentinelA from hne)]
    rfl
  · obtain ⟨levels, -, hheard, e⟩ := pollEnable_eq u h.rst_eq
    obtain rfl := h.underway.levels_eq hk hheard
    rw [resumeReset_enabling h.rst_eq, e, if_neg (show ¬ _ = sentinelB from hne)]
    rfl

/-- A miss that the limit allows: the execution ends before the next poll of the phase. -/
theorem ComesToPoll.stands (h : ComesToPoll s u rst polls heard trace) (hk : heard + 24 ≤ s.answers.length)
    (hmiss : missesSentinel rst (answersOf s heard)) (hmay : mayPollAgain s.params (polls + 1)) :
    ∃ t, exec .chipReset s = .next t ∧ standsPolling s t rst (polls + 1) ∧ t.answers = s.answers.drop (heard + 24) ∧
      t.trace = trace ++ pollEvents s.params (answersOf s heard) := by
  have hpoll := h.underway.poll hk
  refine ⟨pollMissed u (answersOf s heard), ?_, ⟨?_, h.rst_eq, ?_, rfl, hpoll.busy, hpoll.result, hpoll.outcome⟩,
    hpoll.answers, hpoll.trace⟩
  · rw [h.exec_eq, h.resumeReset_of_miss hk hmiss, pollsExhausted_of_mayPollAgain hmay]
    rfl
  · rw [← h.underway.params, ← pollFrame_eq]
    rfl
  · rw [← h.pollcnt_eq]
    rfl

/-- What a timeout leaves does not depend on how far the execution had come before the phase's last poll. -/
theorem Underway.timedOut {t : State} {phase : Bool} {levels : List Level} (h : Underway s u heard trace)
    (ht : resetTimedOut u t phase polls levels) : resetTimedOut s t phase polls levels := by
  obtain ⟨hrst, houtcome, hbusy, hseq, hlow, hphase, hpolls, hacc, hcsn, hsclk, hmosi, hpins⟩ := ht
  exact ⟨hrst, houtcome, hbusy, hseq, hlow, hphase, hpolls, hacc, h.params ▸ hcsn, hsclk, hmosi,
    fun r hc hm hk => (hpins r hc hm hk).trans (h.pins.others r hc hm hk)⟩

/-- A miss at the last poll the limit allows: the execution ends with TIMEOUT (44_reset_seq R179). -/
theorem ComesToPoll.timesOut (h : ComesToPoll s u rst polls heard trace) (hk : heard + 24 ≤ s.answers.length)
    (hmiss : missesSentinel rst (answersOf s heard)) (hlimit : s.params.pollLimit = some (polls + 1)) :
    ∃ t, exec .chipReset s = .next t ∧ resetTimedOut s t (rst == .enabling) (polls + 1) (answersOf s heard) ∧
      t.answers = s.answers.drop (heard + 24) ∧ t.trace = trace ++ pollEvents s.params (answersOf s heard) := by
  have hpoll := h.underway.poll hk
  have hexhausted : pollsExhausted s.params.pollLimit (polls + 1) = true := by
    rw [hlimit]
    exact decide_eq_true (Nat.le_refl _)
  refine ⟨pollFailed u (rst == .enabling) (answersOf s heard), ?_, ?_, hpoll.answers, hpoll.trace⟩
  · rw [h.exec_eq, h.resumeReset_of_miss hk hmiss, if_pos hexhausted]
  · rw [← h.pollcnt_eq]
    exact h.underway.timedOut (pollFailed_timedOut u _ (answersOf_length hk))

/-- A match in Enabling: the execution ends with Done (44_reset_seq R175, R177). -/
theorem ComesToPoll.ends (h : ComesToPoll s u .enabling polls heard trace) (hk : heard + 24 ≤ s.answers.length)
    (hmatch : readback (answersOf s heard) = 0x8000) :
    ∃ t, exec .chipReset s = .next t ∧ resetDone t ∧ t.pollcnt = polls + 1 ∧
      t.answers = s.answers.drop (heard + 24) ∧ t.trace = trace ++ pollEvents s.params (answersOf s heard) := by
  have hpoll := h.underway.poll hk
  obtain ⟨levels, -, hheard, e⟩ := pollEnable_eq u h.rst_eq
  obtain rfl := h.underway.levels_eq hk hheard
  rw [if_pos (show _ = sentinelB from hmatch)] at e
  exact ⟨_, h.exec_eq.trans (congrArg Host.Outcome.next ((resumeReset_enabling h.rst_eq).trans e)),
    ⟨rfl, rfl, rfl, rfl, rfl⟩, congrArg Nat.succ h.pollcnt_eq, hpoll.answers, hpoll.trace⟩

end

/-! ## The executions -/

/-- Settles O51: the execution begins with the poll it stands before, which ends it. -/
theorem enablingPollMatchEnds : Obligations.EnablingPollMatchEnds := by
  intro s hs hr hm hk hmatch
  exact (hr ▸ comesToPoll_standing hs hm).ends (heard := 0) hk hmatch

/-- Settles O50: the execution is the one poll it stands before, in either phase. -/
theorem pollMissPollsAgain : Obligations.PollMissPollsAgain := by
  intro s hs hm hk hmay hmiss
  exact (comesToPoll_standing hs hm).stands (heard := 0) hk hmiss hmay

/-- Settles O53: the poll it stands before is the last the limit allows. -/
theorem pollLimitTimesOut : Obligations.PollLimitTimesOut := by
  rintro s _ hs hlimit rfl hm hk hmiss
  exact (comesToPoll_standing hs hm).timesOut (heard := 0) hk hmiss hlimit

/-- Settles O49: sentinel A is written, and the first poll misses. -/
theorem chipResetStartsDisabling : Obligations.ChipResetStartsDisabling := by
  intro s hs hm hk hmiss hmay
  obtain ⟨u, hu⟩ := comesToPoll_begun hs hm (by omega)
  exact hu.stands hk (.inl ⟨rfl, hmiss⟩) hmay

/-- Settles O48: both first polls match, and four transactions of 147 events are made. -/
theorem chipResetCompletes : Obligations.ChipResetCompletes := by
  intro s hs hm hk hmatchA hmatchB
  obtain ⟨u, hu⟩ := comesToPoll_begun hs hm (by omega)
  obtain ⟨v, hv⟩ := hu.goesOn (by omega) hmatchA
  obtain ⟨t, he, hdone, -, hans, htrace⟩ := hv.ends hk hmatchB
  refine ⟨t, he, hdone, hans, htrace, ?_⟩
  rw [htrace]
  simp (disch := omega) only [List.length_append, disableWriteEvents, enableWriteEvents, pollEvents,
    transactionEvents_length, answersOf_length]

/-- Settles O52: the poll in Disabling goes on to the enable phase, whose first poll misses or ends the operation. -/
theorem disablingPollMatchGoesOn : Obligations.DisablingPollMatchGoesOn := by
  refine ⟨fun s hs hr hm hk hmatch hmiss hmay => ?_, fun s hs hr hm hk hmatchA hmatchB => ?_,
    fun s hs hm hk hmatch hmiss hmay => ?_⟩
  · obtain ⟨v, hv⟩ := (hr ▸ comesToPoll_standing hs hm).goesOn (heard := 0) (by omega) hmatch
    exact hv.stands hk (.inr ⟨rfl, hmiss⟩) hmay
  · obtain ⟨v, hv⟩ := (hr ▸ comesToPoll_standing hs hm).goesOn (heard := 0) (by omega) hmatchA
    obtain ⟨t, he, hdone, -, hrest⟩ := hv.ends hk hmatchB
    exact ⟨t, he, hdone, hrest⟩
  · obtain ⟨u, hu⟩ := comesToPoll_begun hs hm (by omega)
    obtain ⟨v, hv⟩ := hu.goesOn (by omega) hmatch
    exact hv.stands hk (.inr ⟨rfl, hmiss⟩) hmay

/-- Settles O54: the first poll of a phase is the last the limit allows. -/
theorem immediateTimeouts : Obligations.ImmediateTimeouts := by
  refine ⟨fun s hs hlimit hm hk hmiss => ?_, fun s hs hr hlimit hm hk hmatch hmiss => ?_,
    fun s hs hlimit hm hk hmatch hmiss => ?_⟩
  · obtain ⟨u, hu⟩ := comesToPoll_begun hs hm (by omega)
    exact hu.timesOut hk (.inl ⟨rfl, hmiss⟩) hlimit
  · obtain ⟨v, hv⟩ := (hr ▸ comesToPoll_standing hs hm).goesOn (heard := 0) (by omega) hmatch
    exact hv.timesOut hk (.inr ⟨rfl, hmiss⟩) hlimit
  · obtain ⟨u, hu⟩ := comesToPoll_begun hs hm (by omega)
    obtain ⟨v, hv⟩ := hu.goesOn (by omega) hmatch
    exact hv.timesOut hk (.inr ⟨rfl, hmiss⟩) hlimit

/-! ## The run that does not end -/

/-- Standing before a transaction of CHIP_RESET, a step is an execution of it (log 1). -/
theorem step_of_inChipReset {s : State} (hs : inChipReset s.seq = true) (hinv : s.Inv) (hd : s.dly = 0) :
    step s = exec .chipReset s := by
  unfold inChipReset at hs
  split at hs
  case h_1 len out hq =>
    obtain ⟨h1, h32⟩ := hinv.length_in_range _ _ _ _ hq
    exact stepRunsFrame.2 s len out hq hd h1 h32
  case h_2 => cases hs

theorem runsOperation_of_inChipReset {q : Seq} (h : inChipReset q = true) : runsOperation q = true := by
  unfold inChipReset at h
  split at h
  · rfl
  · cases h

/-- The events of `n` polls in a row, the first heard first. -/
def hangEvents (s : State) (n : Nat) : List Event :=
  (List.range n).flatMap fun k => pollEvents s.params (answersOf s (24 * k))

/-- After a poll the next ones are those of the state it leads to. -/
theorem hangEvents_succ {s u : State} (hparams : u.params = s.params) (hans : u.answers = s.answers.drop 24) (n : Nat) :
    hangEvents s (n + 1) = pollEvents s.params (answersOf s 0) ++ hangEvents u n := by
  have hshift (k : Nat) : answersOf u (24 * k) = answersOf s (24 * (k + 1)) := by
    rw [answersOf_of_drop _ hans, Nat.mul_succ, Nat.add_comm]
  simp only [hangEvents, List.range_succ_eq_map, List.flatMap_cons, List.flatMap_map, hparams, hshift]

/-- While the next `n` readbacks miss, `n` steps are `n` polls of the same phase (44_reset_seq R178). -/
theorem run_of_misses (n : Nat) : ∀ s : State, inChipReset s.seq = true → s.Inv → s.dly = 0 →
    s.params.pollLimit = none → pinDriven s.pins.miso = false → 24 * n ≤ s.answers.length →
    (∀ k < n, missesSentinel s.rst (answersOf s (24 * k))) →
    ∃ t : State, core.run n s = .next t ∧ t.rst = s.rst ∧ t.busy = true ∧ inChipReset t.seq = true ∧
      t.outcome = s.outcome ∧ t.result = s.result ∧ t.trace = s.trace ++ hangEvents s n := by
  induction n with
  | zero =>
    intro s hs hinv _ _ _ _ _
    have hbusy := hinv.busy_while_running (runsOperation_of_inChipReset hs)
    exact ⟨s, rfl, rfl, hbusy, hs, rfl, rfl, (List.append_nil _).symm⟩
  | succ n ih =>
    intro s hs hinv hd hlimit hm hk hmiss
    obtain ⟨u, he, ⟨hseq, hrst, -, hdly, -, hresult, houtcome⟩, hans, htrace⟩ :=
      (comesToPoll_standing hs hm).stands (by omega) (hmiss 0 (by omega)) (by simp [mayPollAgain, hlimit])
    have hstep : step s = .next u := (step_of_inChipReset hs hinv hd).trans he
    have hparams : u.params = s.params := (exec_continues he).params
    have hmiso : u.pins.miso = s.pins.miso := (chipResetFrame s u he).1 .miso (by decide) (by decide) (by decide)
    have hmiss' : ∀ k < n, missesSentinel u.rst (answersOf u (24 * k)) := by
      intro k hkn
      rw [hrst, answersOf_of_drop _ hans, Nat.zero_add, Nat.add_comm, ← Nat.mul_succ]
      exact hmiss (k + 1) (by omega)
    obtain ⟨t, hrun, htrst, htbusy, htseq, htoutcome, htresult, httrace⟩ := ih u (by rw [hseq]; rfl)
      (stepKeepsInv s u hinv hstep) hdly (hparams ▸ hlimit) (hmiso ▸ hm) (by rw [hans, List.length_drop]; omega) hmiss'
    refine ⟨t, (run_succ n hstep).trans hrun, htrst.trans hrst, htbusy, htseq, htoutcome.trans houtcome,
      htresult.trans hresult, ?_⟩
    rw [httrace, htrace, hangEvents_succ hparams hans, List.append_assoc]

/-- Settles O56, by `run_of_misses`: every readback misses the sentinel of the one phase. -/
theorem hangIsAnInfiniteRun : Obligations.HangIsAnInfiniteRun := by
  intro n s hs hinv hd hlimit hm hk hmiss
  refine run_of_misses n s hs hinv hd hlimit hm hk fun k hkn => ?_
  exact hmiss.imp (And.imp_right fun h => h k hkn) (And.imp_right fun h => h k hkn)

end Sys2Proof.Machine
end

section
/-! PROOFS. How an operation ends, and the wait for a command (60_exceptions). -/

namespace Sys2Proof.Machine

/-! ## The end of an operation -/

/-- An operation has ended with OK: OUTCOME is OK, BUSY is 0 and SEQ stands at IDLE (10_state R45, 60_exceptions R193). -/
structure EndedOk (t : State) : Prop where
  outcome : t.outcome = .ok
  busy : t.busy = false
  seq : t.seq = .idle

theorem EndedOk.finish (r : Word) (s : State) : EndedOk (s.finish .ok r) := ⟨rfl, rfl, rfl⟩

/-- An operation other than CHIP_RESET has one end: it has no limit to reach, and no fault (60_exceptions R190). -/
theorem exec_endedOk {i : Instr} {s t : State} (hk : i.isCommand = true) (hi : i ≠ .chipReset) (h : exec i s = .next t) :
    EndedOk t := by
  by_cases hone : i.isOneFrame = true
  · obtain ⟨out, levels, acc, seq, result, outcome, busy, -, -, hcommand, -, rfl⟩ := oneFrame_eq hone h
    obtain ⟨hseq, houtcome, hbusy⟩ := hcommand hk
    exact ⟨houtcome, hbusy, hseq⟩
  · cases i with
    | gpioInit => exact Host.Outcome.next.inj h ▸ .finish 0 _
    | powerUp => exact Host.Outcome.next.inj h ▸ .finish 0 _
    | chipReset => exact absurd rfl hi
    | _ => exact absurd rfl hone

/-- CHIP_RESET ends with TIMEOUT only by reaching its poll limit (44_reset_seq R179, 60_exceptions R199). -/
theorem chipReset_endedOk {s t : State} (hlimit : s.params.pollLimit = none) (h : exec .chipReset s = .next t)
    (hidle : t.seq = .idle) : EndedOk t := by
  have hparams : t.params = s.params := (exec_continues h).params
  obtain ⟨-, ⟨-, hbusy, ⟨hok, -⟩ | ⟨-, -, hlimited⟩⟩ | ⟨w, hstands, -⟩⟩ := chipReset_stops h
  · exact ⟨hok, hbusy, hidle⟩
  · exact absurd (hparams ▸ hlimit) hlimited
  · cases hidle.symm.trans hstands

/-- Settles O14, by `exec_endedOk` and `chipReset_endedOk`. -/
theorem operationsEndOk : Obligations.OperationsEndOk := by
  refine ⟨fun i s t hk hi h => ?_, fun s t hlimit h hidle => ?_⟩
  · obtain ⟨houtcome, hbusy, hseq⟩ := exec_endedOk hk hi h
    exact ⟨houtcome, hbusy, hseq⟩
  · obtain ⟨houtcome, hbusy, -⟩ := chipReset_endedOk hlimit h hidle
    exact ⟨houtcome, hbusy⟩

/-! ## The wait -/

/-- With BUSY 0 and no word from the host there is nothing to fetch (60_exceptions R214). -/
theorem fetchCommand_of_noCommand {s : State} (hb : s.busy = false) (hh : s.host = []) :
    s.fetchCommand = .settled s := by
  rw [State.fetchCommand, hb, if_neg (by decide), hh]

/-- Settles O20: at IDLE a step is what `fetchCommand` finds, and it settles where it is. -/
theorem idleCoreWaits : Obligations.IdleCoreWaits := by
  intro s hs hb hh
  rw [step, fetch_idle hs, fetchCommand_of_noCommand hb hh]

end Sys2Proof.Machine
end

section
/-! PROOFS. The external reset (70_reset_and_hazards R220): the invariant holds after a reset under any parameters. -/

namespace Sys2Proof.Machine

/-- A reset makes exactly as many pins without a role as it is told (00_scope R8). -/
@[simp] theorem Pins.afterReset_extras_length (n : Nat) (before : History) :
    (Pins.afterReset n before).extras.length = n := by
  simp [Pins.afterReset]

/-- `resetMeetsInv` for all parameters and histories: at IDLE every clause about a running operation is empty. -/
theorem State.Inv.afterReset (params : Params) (before : History) : (State.afterReset params before).Inv where
  busy_while_running := nofun
  timer_in_delay := Nat.le_refl 0
  length_in_range := nofun
  index_in_range := nofun
  selected_in_window := nofun
  pins_fixed := Pins.afterReset_extras_length params.extraPins before

/-- Settles O7: the fields of `State.afterReset`, none of which is the interrupted operation's, and `State.Inv.afterReset`. -/
theorem externalResetFromAnyState : Obligations.ExternalResetFromAnyState := fun s =>
  ⟨rfl, rfl, rfl, rfl, rfl, rfl, rfl, rfl, rfl, .afterReset s.params s.history⟩

end Sys2Proof.Machine
end
